-- ==== Sys2Proof/Word.lean ====
section
/-! DEFINITION. The words of the block: bytes, 16-bit registers, 32-bit command and response words (R7, R80, R84). -/

namespace Sys2Proof

/-- A byte of an ADU, of the transport or of an exception code (R22, R50). -/
abbrev Byte := BitVec 8

/-- A 16-bit register or length (R32). -/
abbrev Word := BitVec 16

/-- A 32-bit command, response or record word, or a millisecond count (R7, R80, R84, R88). -/
abbrev Word32 := BitVec 32

end Sys2Proof
end

