-- ==== Sys2Proof/Syntax.lean ====
section
/-! DEFINITION. The command set (R82): one constructor per row of spec/opcode_table.json, and the reasons for which a
command is refused (R91). Lengths, byte indexes and register numbers are the integers R81 makes of them; bytes and
register values are words. -/

namespace Sys2Proof

/-- The 18 commands of R82. -/
inductive Instr where
  /-- NOP (R217). -/
  | nop
  /-- CRC.INIT (R114). -/
  | crcInit
  /-- CRC.UPD byte, the byte in A (R115). -/
  | crcUpd (byte : Byte)
  /-- CRC.BUF len, the length in V (R116). -/
  | crcBuf (len : Nat)
  /-- CRC.APPEND len, the length in V (R117). -/
  | crcAppend (len : Nat)
  /-- CRC.CHECK len, the length in V (R118). -/
  | crcCheck (len : Nat)
  /-- STB index, byte: the index in A, the byte in V[7:0] (R210). -/
  | stb (index : Nat) (byte : Byte)
  /-- LDB index, in A (R211). -/
  | ldb (index : Nat)
  /-- WRREG reg, value: the register number in A, the value in V (R213). -/
  | wrreg (reg : Nat) (value : Word)
  /-- RDREG reg, in A (R212). -/
  | rdreg (reg : Nat)
  /-- SEND.A (R171). -/
  | sendA
  /-- SEND.S (R181). -/
  | sendS
  /-- GETSTATE (R214). -/
  | getState
  /-- ISREADY (R216). -/
  | isReady
  /-- SILDEF (R201). -/
  | silDef
  /-- POLL (R132). -/
  | poll
  /-- RST.SOFT (R254). -/
  | rstSoft
  /-- RST.ABORT (R253). -/
  | rstAbort
  deriving DecidableEq, Repr

/-- The refusal reasons 1 to 8 of R91. -/
inductive Reason where
  /-- 1: the opcode is none of the 18. -/
  | reservedOpcode
  /-- 2: a must-be-zero field, or a reserved bit of CTRL, is not zero. -/
  | mustBeZero
  /-- 3: a byte index or a length is out of range for ADU_CAP. -/
  | outOfRange
  /-- 4: a reserved register number, or a write to a read-only register. -/
  | badRegister
  /-- 5: a value that is not legal for the register. -/
  | badValue
  /-- 6: a send while not ready. -/
  | notReady
  /-- 7: SEND.S while a blocking request is pending or in progress. -/
  | syncOccupied
  /-- 8: a send with illegal message lengths. -/
  | badLengths
  deriving DecidableEq, Repr

end Sys2Proof
end

