-- ==== Sys2Proof/WellFormed.lean ====
section
/-! DEFINITION. Which commands fit their word (R80, R81): a length fits the 16-bit field V, an index or a register
number the 8-bit field A. Whether an index or a length fits ADU_CAP, or a register exists, is decided when the
command runs (R91 reasons 3 and 4), not here. -/

namespace Sys2Proof

/-- A length operand fits V (R81: "the integer V, 0 to 65535"). -/
abbrev fitsV (len : Nat) : Bool := decide (len < 65536)

/-- An index or a register number fits A (R80: 8 bits). -/
abbrev fitsA (n : Nat) : Bool := decide (n < 256)

/-- The operands of the command fit the fields of its word. -/
def Instr.wellFormed (i : Instr) : Bool :=
  match i with
  | .nop => true
  | .crcInit => true
  | .crcUpd _ => true
  | .crcBuf len => fitsV len
  | .crcAppend len => fitsV len
  | .crcCheck len => fitsV len
  | .stb index _ => fitsA index
  | .ldb index => fitsA index
  | .wrreg reg _ => fitsA reg
  | .rdreg reg => fitsA reg
  | .sendA => true
  | .sendS => true
  | .getState => true
  | .isReady => true
  | .silDef => true
  | .poll => true
  | .rstSoft => true
  | .rstAbort => true

/-- `wellFormed` as a proposition. -/
abbrev Instr.WellFormed (i : Instr) : Prop := i.wellFormed = true

end Sys2Proof
end

