-- ==== Sys2Proof/Decode.lean ====
section
/-! DEFINITION. The decoder of the 32-bit command word, total and rejecting by reason (R80 to R82, R90 to R92), the
encoder written from the same table, and the table itself as mask and match rows (R82). -/

namespace Sys2Proof

/-- What a command word decodes to: a command, or the reason it is refused before any command runs. -/
inductive Decoded where
  | instr (i : Instr)
  | rejected (r : Reason)
  deriving DecidableEq, Repr

/-- The field OP, bits 31:24 (R80). -/
def opField (w : Word32) : Byte := w.extractLsb' 24 8

/-- The field A, bits 23:16 (R80). -/
def aField (w : Word32) : Byte := w.extractLsb' 16 8

/-- The field V, bits 15:0 (R80). -/
def vField (w : Word32) : Word := w.extractLsb' 0 16

/-- The command `i` if every must-be-zero field is zero, else a refusal with reason 2 (R81). -/
def requireZero (zero : Bool) (i : Instr) : Decoded :=
  if zero then .instr i else .rejected .mustBeZero

/-- The opcode map (R82) on the three fields; every opcode not in it is reserved (R92). -/
def decodeFields (op a : Byte) (v : Word) : Decoded :=
  match op.toNat with
  | 0x00 => requireZero (a == 0 && v == 0) .nop
  | 0x01 => requireZero (a == 0 && v == 0) .crcInit
  | 0x02 => requireZero (v == 0) (.crcUpd a)
  | 0x03 => requireZero (a == 0) (.crcBuf v.toNat)
  | 0x04 => requireZero (a == 0) (.crcAppend v.toNat)
  | 0x05 => requireZero (a == 0) (.crcCheck v.toNat)
  | 0x10 => requireZero (v.extractLsb' 8 8 == 0) (.stb a.toNat (v.extractLsb' 0 8))
  | 0x11 => requireZero (v == 0) (.ldb a.toNat)
  | 0x12 => .instr (.wrreg a.toNat v)
  | 0x13 => requireZero (v == 0) (.rdreg a.toNat)
  | 0x20 => requireZero (a == 0 && v == 0) .sendA
  | 0x21 => requireZero (a == 0 && v == 0) .sendS
  | 0x22 => requireZero (a == 0 && v == 0) .getState
  | 0x23 => requireZero (a == 0 && v == 0) .isReady
  | 0x24 => requireZero (a == 0 && v == 0) .silDef
  | 0x30 => requireZero (a == 0 && v == 0) .poll
  | 0x3E => requireZero (a == 0 && v == 0) .rstSoft
  | 0x3F => requireZero (a == 0 && v == 0) .rstAbort
  | _ => .rejected .reservedOpcode

/-- The decoder. -/
def decode (w : Word32) : Decoded := decodeFields (opField w) (aField w) (vField w)

/-- The instruction the decoder reads from a word whose bits are numbered as spec/opcode_table.json numbers them. A
command word is presented whole (R80), so no byte order enters. -/
def decodeTableWord (nbits w : Nat) : Option Instr :=
  match decode (BitVec.ofNat 32 (w % 2 ^ nbits)) with
  | .instr i => some i
  | .rejected _ => none

/-- A command word from its three fields (R80). -/
def commandWord (op a : Byte) (v : Word) : Word32 := op ++ a ++ v

/-- The encoder (R82). -/
def encode (i : Instr) : Word32 :=
  match i with
  | .nop => commandWord 0x00 0 0
  | .crcInit => commandWord 0x01 0 0
  | .crcUpd byte => commandWord 0x02 byte 0
  | .crcBuf len => commandWord 0x03 0 (BitVec.ofNat 16 len)
  | .crcAppend len => commandWord 0x04 0 (BitVec.ofNat 16 len)
  | .crcCheck len => commandWord 0x05 0 (BitVec.ofNat 16 len)
  | .stb index byte => commandWord 0x10 (BitVec.ofNat 8 index) (byte.setWidth 16)
  | .ldb index => commandWord 0x11 (BitVec.ofNat 8 index) 0
  | .wrreg reg value => commandWord 0x12 (BitVec.ofNat 8 reg) value
  | .rdreg reg => commandWord 0x13 (BitVec.ofNat 8 reg) 0
  | .sendA => commandWord 0x20 0 0
  | .sendS => commandWord 0x21 0 0
  | .getState => commandWord 0x22 0 0
  | .isReady => commandWord 0x23 0 0
  | .silDef => commandWord 0x24 0 0
  | .poll => commandWord 0x30 0 0
  | .rstSoft => commandWord 0x3E 0 0
  | .rstAbort => commandWord 0x3F 0 0

/-- One row of the table of R82: a word `w` is the command iff `w &&& mask = pattern`. -/
structure OpcodeRow where
  mask : Word32
  pattern : Word32
  deriving DecidableEq, Repr

/-- The row of the table of R82 that a command belongs to. -/
def opcodeRow (i : Instr) : OpcodeRow :=
  match i with
  | .nop => ⟨0xFFFFFFFF, 0x00000000⟩
  | .crcInit => ⟨0xFFFFFFFF, 0x01000000⟩
  | .crcUpd _ => ⟨0xFF00FFFF, 0x02000000⟩
  | .crcBuf _ => ⟨0xFFFF0000, 0x03000000⟩
  | .crcAppend _ => ⟨0xFFFF0000, 0x04000000⟩
  | .crcCheck _ => ⟨0xFFFF0000, 0x05000000⟩
  | .stb _ _ => ⟨0xFF00FF00, 0x10000000⟩
  | .ldb _ => ⟨0xFF00FFFF, 0x11000000⟩
  | .wrreg _ _ => ⟨0xFF000000, 0x12000000⟩
  | .rdreg _ => ⟨0xFF00FFFF, 0x13000000⟩
  | .sendA => ⟨0xFFFFFFFF, 0x20000000⟩
  | .sendS => ⟨0xFFFFFFFF, 0x21000000⟩
  | .getState => ⟨0xFFFFFFFF, 0x22000000⟩
  | .isReady => ⟨0xFFFFFFFF, 0x23000000⟩
  | .silDef => ⟨0xFFFFFFFF, 0x24000000⟩
  | .poll => ⟨0xFFFFFFFF, 0x30000000⟩
  | .rstSoft => ⟨0xFFFFFFFF, 0x3E000000⟩
  | .rstAbort => ⟨0xFFFFFFFF, 0x3F000000⟩

/-- The 18 rows of the table of R82, in its order. -/
def opcodeTable : List OpcodeRow :=
  [opcodeRow .nop, opcodeRow .crcInit, opcodeRow (.crcUpd 0), opcodeRow (.crcBuf 0), opcodeRow (.crcAppend 0),
    opcodeRow (.crcCheck 0)] ++
  [opcodeRow (.stb 0 0), opcodeRow (.ldb 0), opcodeRow (.wrreg 0 0), opcodeRow (.rdreg 0)] ++
  [opcodeRow .sendA, opcodeRow .sendS, opcodeRow .getState, opcodeRow .isReady, opcodeRow .silDef] ++
  [opcodeRow .poll, opcodeRow .rstSoft, opcodeRow .rstAbort]

end Sys2Proof
end

