-- ==== Sys2Proof/Config.lean ====
section
/-! DEFINITION. The open parameters of the block (R6) and their legality. A parameter set is plain data; the machine
carries the set it was built with in `State.par` and no step changes it (log entry 1). -/

namespace Sys2Proof

/-- One baud-rate enumerant: `RATE[k]` in bits per second and `DSIL[k]` in milliseconds (R6). -/
structure BaudRow where
  rate : Nat
  dsil : Nat
  deriving DecidableEq, Repr

/-- The parameters of R6. `baudTable` holds `RATE` and `DSIL` row by row, so that NB is its length. -/
structure Params where
  qn : Nat
  aduCap : Nat
  baudTable : List BaudRow
  tmin : Nat
  tmax : Nat
  deriving DecidableEq, Repr

/-- NB, the number of baud-rate enumerants (R6). -/
def Params.nb (p : Params) : Nat := p.baudTable.length

/-- The constraints of R6 on one baud table: rates positive and pairwise distinct, 19200 among them, every default
silence from 1 to 65535 ms, a slower rate never with a shorter silence. -/
abbrev BaudTableLegal (t : List BaudRow) : Prop :=
  (∀ r ∈ t, 1 ≤ r.rate ∧ 1 ≤ r.dsil ∧ r.dsil ≤ 65535) ∧
  t.Pairwise (fun a b => a.rate ≠ b.rate) ∧
  (∃ r ∈ t, r.rate = 19200) ∧
  (∀ a ∈ t, ∀ b ∈ t, a.rate < b.rate → b.dsil ≤ a.dsil)

/-- The constraints of R6 on a parameter set. -/
abbrev Params.Legal (p : Params) : Prop :=
  (2 ≤ p.qn ∧ p.qn ≤ 65536) ∧
  (6 ≤ p.aduCap ∧ p.aduCap ≤ 256) ∧
  (1 ≤ p.nb ∧ p.nb ≤ 16) ∧
  BaudTableLegal p.baudTable ∧
  (1 ≤ p.tmin ∧ p.tmin ≤ 50 ∧ 50 ≤ p.tmax ∧ p.tmax ≤ 65535)

/-- The example parameter set P0 of 95_test_vectors.md section 0. DESIGN CHOICE (log entry 1): `State.reset` is built
with it; no statement rests on its numbers. -/
def Params.example0 : Params where
  qn := 4
  aduCap := 256
  baudTable := [⟨9600, 4⟩, ⟨19200, 2⟩, ⟨38400, 2⟩, ⟨115200, 2⟩]
  tmin := 1
  tmax := 1000

end Sys2Proof
end

