-- ==== Sys2Proof/Machine/State.lean ====
section
/-! DEFINITION. The state of the block as plain data: the closed list of R20, then the model's own two fields `par`
(log entry 1) and `schedule` (log entry 2); the reasons a step can stop; the state after power-on reset (R55). -/

namespace Sys2Proof.Machine

/-- The bytes of an ADU buffer (R22, R60) as a sparse list of (index, byte), strictly rising, with no entry equal to
what an unlisted index reads as (log entry 7). -/
abbrev Memory := List Host.Cell

/-- A message (R22). -/
structure Message where
  context  : Word
  crcCheck : Bool
  txLength : Word
  rxLength : Word
  adu      : Memory
  deriving DecidableEq, Repr

/-- A queue entry (R24). -/
structure Entry where
  msg   : Message
  cb    : Byte
  async : Bool
  sent  : Bool
  deriving DecidableEq, Repr

/-- The staging message with its callback tag (R23). -/
structure Staging where
  msg : Message
  cb  : Byte
  deriving DecidableEq, Repr

/-- The current packet slot (R27). -/
structure Current where
  valid : Bool
  entry : Entry
  deriving DecidableEq, Repr

/-- The engine state `ES` (R28). -/
inductive EngineState where
  | idle
  | tx
  | awaitReply
  | gotReply
  | exception
  | timeout
  | silent
  deriving DecidableEq, Repr

/-- The three used bits of CTRL (R38). -/
structure Ctrl where
  sloaded : Bool
  bound   : Bool
  diren   : Bool
  deriving DecidableEq, Repr

/-- The kind of a completion record (R88). -/
inductive Kind where
  | reply
  | timeout
  | devExc
  | crcFail
  deriving DecidableEq, Repr

/-- A completion record (R88, R232); `msg` is the whole message for a REPLY and none for the other kinds. -/
structure Completion where
  kind    : Kind
  async   : Bool
  code    : Byte
  context : Word
  cb      : Byte
  msg     : Option Message
  deriving DecidableEq, Repr

/-- One step of one of the five agents of R10 (R96 and R94 name the signals). -/
inductive Event where
  /-- HOST: one command word on the command port (R70, R80). -/
  | command (w : Word32)
  /-- TICK (R131). -/
  | tick
  /-- LINE.TXOUT (R51). -/
  | txOut
  /-- LINE.RXIN(b) (R51). -/
  | rxIn (b : Byte)
  /-- DISP.GRANT (R184). -/
  | dispGrant
  /-- DISP.COMPLETE (R186). -/
  | dispComplete
  /-- POR, power-on reset (R250). -/
  | por
  deriving DecidableEq, Repr

/-- The state: every element of R20, then `par` and `schedule`, which are the model's own. -/
structure State where
  /-- The parameter set this block was built with (R6). No step writes it (log entry 1). -/
  par      : Params
  /-- `CRC` (R21). -/
  crc      : Word
  /-- `CRCOK` (R37). -/
  crcOk    : Bool
  /-- `STG` (R23). -/
  stg      : Staging
  /-- `Q[0..QN)` (R25). -/
  q        : List Entry
  /-- `HEAD` (R25). -/
  head     : Word
  /-- `TAIL` (R25). -/
  tail     : Word
  /-- `SYNC` (R26). -/
  sync     : Entry
  /-- `SYNCREQ` (R26). -/
  syncReq  : Bool
  /-- `SYNCBUSY` (R26). -/
  syncBusy : Bool
  /-- `CUR` (R27). -/
  cur      : Current
  /-- `ES` (R28). -/
  es       : EngineState
  /-- `TOCNT` (R29). -/
  tocnt    : Word
  /-- `SILT0` (R30). -/
  silt0    : Word32
  /-- `EXC` (R31). -/
  exc      : Byte
  /-- `EXKIND` (R31): true for a device code. -/
  exkind   : Bool
  /-- `LASTMS` (R34). -/
  lastMs   : Word32
  /-- `GUARD` (R34). -/
  guard    : Bool
  /-- `MS` (R35). -/
  ms       : Word32
  /-- `RSTPEND` (R36). -/
  rstPend  : Bool
  /-- `CTRL` (R38). -/
  ctrl     : Ctrl
  /-- `BAUD` (R39). -/
  baud     : Word
  /-- `TIMEOUT` (R40). -/
  timeout  : Word
  /-- `SIL[0..NB)` (R41). -/
  sil      : List Word
  /-- `DIR` (R48): true for transmit. -/
  dir      : Bool
  /-- `TXQ` (R50), the next byte to leave first. -/
  txq      : List Byte
  /-- `RXF` (R50), oldest byte first. -/
  rxf      : List Byte
  /-- `TBAUD` (R50). -/
  tbaud    : Option Word
  /-- `RSP` (R52), oldest response first. -/
  rsp      : List Word32
  /-- `CPL` (R52), oldest record first. -/
  cpl      : List Completion
  /-- `LINEOUT` (R51, R52), oldest pair first. -/
  lineOut  : List (Byte × Bool)
  /-- The steps the environment will take, the next one first (log entry 2). -/
  schedule : List Event
  deriving DecidableEq, Repr

/-- Why a step stops. Each reason is raised only in states that the invariant `Sys2Proof.BlockInv` of Safety.lean rules out
(log entry 8); stopping there is safe. -/
inductive Fault where
  /-- `T.read_byte` on an empty RXF (R242, U6), raised by the reply capture. Safe. -/
  | rxEmpty
  /-- An engine access to an ADU index at or beyond ADU_CAP (R60), raised by `start_tx` and the reply capture. Safe. -/
  | aduOutOfRange
  /-- `crc_valid` with a length below 2, which R113 leaves undefined, raised by the reply validation. Safe. -/
  | crcLengthBelowTwo
  /-- A ring index that names no slot of Q (R25), raised by SEND.A and the Idle arm. Safe. -/
  | ringSlotAbsent
  /-- `silence_for(k)` with k at or beyond NB (R196), raised by the Silent arm and by reading SILACT. Safe. -/
  | baudRowAbsent
  deriving DecidableEq, Repr

/-- Why a command has no meaning in the model. -/
inductive Refusal where
  /-- The command of this mnemonic has no meaning yet. Raised by an arm of `exec` alone, and by none of them now. Safe. -/
  | notModelled (mnemonic : String)
  deriving DecidableEq, Repr

/-- A message of zeros. -/
def Message.zero : Message := ⟨0, false, 0, 0, []⟩

/-- A queue entry of zeros. DESIGN CHOICE (log entry 5): what Q, SYNC and CUR's entry hold at reset, where R55 says
"unspecified, never read before written". -/
def Entry.zero : Entry := ⟨Message.zero, 0, false, false⟩

/-- The state after power-on reset of a block built with the parameters `p` (R55, R250). -/
def State.resetWith (p : Params) : State where
  par := p
  crc := 0xFFFF
  crcOk := false
  stg := ⟨Message.zero, 0⟩
  q := List.replicate p.qn Entry.zero
  head := 0
  tail := 0
  sync := Entry.zero
  syncReq := false
  syncBusy := false
  cur := ⟨false, Entry.zero⟩
  es := .idle
  tocnt := 0
  silt0 := 0
  exc := 0
  exkind := false
  lastMs := 0
  guard := false
  ms := 0
  rstPend := false
  ctrl := ⟨false, false, false⟩
  baud := 0
  timeout := BitVec.ofNat 16 p.tmin
  sil := List.replicate p.nb 0
  dir := false
  txq := []
  rxf := []
  tbaud := none
  rsp := []
  cpl := []
  lineOut := []
  schedule := []

/-- The state after power-on reset with the example parameters P0 (log entry 1), with nothing scheduled. -/
def State.reset : State := State.resetWith Params.example0

end Sys2Proof.Machine
end

