-- ==== Sys2Proof/Machine/Bits.lean ====
section
/-! DEFINITION. Bit slices and numeric codes (R7, R8, R28, R88, R91). -/

namespace Sys2Proof.Machine

/-- `lo8(v) = v[7:0]` (R8). -/
def lo8 (v : Word) : Byte := v.extractLsb' 0 8

/-- `hi8(v) = v[15:8]` (R8). -/
def hi8 (v : Word) : Byte := v.extractLsb' 8 8

/-- `v[15:0]` of a 32-bit value (R30, R35). -/
def lo16 (v : Word32) : Word := v.extractLsb' 0 16

/-- `v[31:16]` of a 32-bit value (R30, R35). -/
def hi16 (v : Word32) : Word := v.extractLsb' 16 16

/-- One flag as one bit. -/
def bit (b : Bool) : BitVec 1 := BitVec.ofBool b

/-- `CODE_NONE`, the "no code" sentinel (R7). -/
def codeNone : Byte := 0x00

/-- `EXC_MASK`, the exception bit of the function-code byte (R7, R87; PRESUMED by the spec itself, log entry 10). -/
def excMask : Byte := 0x80

/-- The numeric code of an engine state (R28, R89). -/
def stateCode (e : EngineState) : BitVec 3 :=
  match e with
  | .idle => 0
  | .tx => 1
  | .awaitReply => 2
  | .gotReply => 3
  | .exception => 4
  | .timeout => 5
  | .silent => 6

/-- The numeric code of a completion kind (R88, R230). -/
def kindCode (k : Kind) : BitVec 2 :=
  match k with
  | .reply => 0
  | .timeout => 1
  | .devExc => 2
  | .crcFail => 3

/-- The number of a refusal reason (R91). -/
def reasonCode (r : Reason) : Word :=
  match r with
  | .reservedOpcode => 1
  | .mustBeZero => 2
  | .outOfRange => 3
  | .badRegister => 4
  | .badValue => 5
  | .notReady => 6
  | .syncOccupied => 7
  | .badLengths => 8

end Sys2Proof.Machine
end

