-- ==== Sys2Proof/Machine/Memory.lean ====
section
/-! DEFINITION. The byte spaces of R60: one byte is the only access width (R62). A buffer is a sparse list in one
canonical form, so that equal buffers are equal data (log entry 7). -/

namespace Sys2Proof.Machine

/-- What an index that is not listed reads as: the reset value of every staging byte (R23, R55); for the other
buffers the value log entry 5 names. -/
def Memory.unlisted : Byte := 0

/-- The canonical form: indices strictly rising, no entry that an unlisted index would read the same. -/
abbrev Memory.wf (m : Memory) : Prop :=
  List.Pairwise (fun x y => x.1 < y.1) m ∧ ∀ c ∈ m, c.2 ≠ Memory.unlisted

/-- Every listed index is inside a buffer of `cap` bytes. -/
abbrev Memory.within (m : Memory) (cap : Nat) : Prop := ∀ c ∈ m, c.1 < cap

/-- `MemRead(space, i, 1)` (R9). -/
def Memory.read (m : Memory) (i : Nat) : Byte :=
  match m with
  | [] => Memory.unlisted
  | (a, b) :: rest => if a = i then b else Memory.read rest i

/-- `MemWrite(space, i, 1, v)` (R9); writing what an unlisted index reads as removes the entry. -/
def Memory.write (m : Memory) (i : Nat) (v : Byte) : Memory :=
  match m with
  | [] => if v = Memory.unlisted then [] else [(i, v)]
  | (a, b) :: rest =>
    if i < a then (if v = Memory.unlisted then (a, b) :: rest else (i, v) :: (a, b) :: rest)
    else if i = a then (if v = Memory.unlisted then rest else (i, v) :: rest)
    else (a, b) :: Memory.write rest i v

/-- The byte sequence `B.adu[i..i+n)` (R9). -/
def Memory.bytes (m : Memory) (i : Nat) : Nat → List Byte
  | 0 => []
  | n + 1 => Memory.read m i :: Memory.bytes m (i + 1) n

end Sys2Proof.Machine
end

