-- ==== Sys2Proof/Machine/CrcCodec.lean ====
section
/-! DEFINITION. The CRC codec's pure functions (R110 to R113), used by the CRC commands and, without the CRC register,
by SEND.A, SEND.S and the reply validation (R122). -/

namespace Sys2Proof.Machine

/-- One right shift, with the constant XORed in when the shifted-out bit was 1 (R111). -/
def crcShift (c : Word) : Word := if c.getLsbD 0 then (c >>> 1) ^^^ 0xA001 else c >>> 1

/-- `n` right shifts in a row. -/
def crcShifts : Nat → Word → Word
  | 0, c => c
  | n + 1, c => crcShifts n (crcShift c)

/-- `crc_step(c, b)`: the byte XORed into the low byte, then eight right shifts (R111). -/
def crcStep (c : Word) (b : Byte) : Word := crcShifts 8 (c ^^^ b.setWidth 16)

/-- `crc16(bytes)` (R112). -/
def crc16 (bytes : List Byte) : Word := bytes.foldl crcStep 0xFFFF

/-- `crc_append(B, n)`: the CRC of the first `n` bytes stored after them, low byte first (R113, R61). -/
def crcAppend (m : Memory) (n : Nat) : Memory :=
  let c := crc16 (Memory.bytes m 0 n)
  Memory.write (Memory.write m n (lo8 c)) (n + 1) (hi8 c)

/-- `crc_valid(B, L)` (R113). Callers make sure that `2 ≤ L`; below that R113 defines nothing. -/
def crcValid (m : Memory) (len : Nat) : Bool :=
  let c := crc16 (Memory.bytes m 0 (len - 2))
  Memory.read m (len - 2) == lo8 c && Memory.read m (len - 1) == hi8 c

end Sys2Proof.Machine
end

