-- ==== Sys2Proof/Machine/Ops.lean ====
section
/-! DEFINITION. The operations shared by the commands and the agents' steps: responses and refusals (R84, R90), the
transport binding (R240 to R244), the ring (R24, R25), the lookups of the timing table (R196, R197), the completion
record (R88, R232) and the terminal event (R150, R238), which stand in this block where a processor takes an
exception. -/

namespace Sys2Proof.Machine

/-- What a meaning answers. -/
abbrev Res := Host.Outcome State Fault Refusal

/-- Go on with `f` where `r` is a next state; a stop stays as it is. -/
def andThen (r : Res) (f : State → Res) : Res :=
  match r with
  | .next t => f t
  | .fault e => .fault e
  | .refused e => .refused e

/-- The response word `ERR ++ 0 ++ VAL` (R84). -/
def responseWord (err : Bool) (val : Word) : Word32 := bit err ++ (0 : BitVec 15) ++ val

/-- `respond(err, v)`: the one response word of the current command (R84). -/
def respond (err : Bool) (val : Word) (s : State) : State :=
  { s with rsp := s.rsp ++ [responseWord err val] }

/-- An accepted command answers `respond(0, v)` (R85). -/
def accept (val : Word) (s : State) : Res := .next (respond false val s)

/-- `raise Refuse(reason)`: the response `respond(1, reason)` and no other change (R90; log entry 4). -/
def refuse (r : Reason) (s : State) : Res := .next (respond true (reasonCode r) s)

/-- `T.set_baud_rate(k)` (R240). -/
def setBaudRate (k : Word) (s : State) : State := { s with tbaud := some k }

/-- `T.write` of a byte sequence: appended to TXQ in index order, in the same step (R241). -/
def transportWrite (bytes : List Byte) (s : State) : State := { s with txq := s.txq ++ bytes }

/-- `T.pending_tx_count()` (R243). -/
def pendingTx (s : State) : Nat := s.txq.length

/-- `T.pending_rx_count()` (R243). -/
def pendingRx (s : State) : Nat := s.rxf.length

/-- `T.flush_rx()` (R243). -/
def flushRx (s : State) : State := { s with rxf := [] }

/-- `T.flush_tx()`: part of the transport's contract; no rule of the block invokes it (R243). -/
def flushTx (s : State) : State := { s with txq := [] }

/-- `T.set_direction(transmit)`, invoked only when CTRL.DIREN is 1 (R244). -/
def setDirection (transmit : Bool) (s : State) : State :=
  { s with dir := if s.ctrl.diren then transmit else s.dir }

/-- `T.read_byte()`: the oldest byte of RXF and the rest; on an empty RXF it has no value (R242, U6). -/
def readByte (rxf : List Byte) : Except Fault (Byte × List Byte) :=
  match rxf with
  | [] => .error .rxEmpty
  | b :: rest => .ok (b, rest)

/-- Read `n` bytes from RXF into a buffer of `cap` bytes at `i`, `i + 1`, … in increasing order, one `T.read_byte`
each (R142, R143). Answers the buffer and what is left of RXF. -/
def captureBytes (cap : Nat) : Nat → Nat → List Byte → Memory → Except Fault (Memory × List Byte)
  | _, 0, rxf, m => .ok (m, rxf)
  | i, n + 1, rxf, m =>
    match readByte rxf with
    | .error e => .error e
    | .ok (b, rest) =>
      if i < cap then captureBytes cap (i + 1) n rest (Memory.write m i b) else .error .aduOutOfRange

/-- `CUR.msg.adu[0..n) <- T.read_byte()` (R142, R143), and go on with `f`. -/
def captureReply (n : Nat) (f : State → Res) (s : State) : Res :=
  match captureBytes s.par.aduCap 0 n s.rxf s.cur.entry.msg.adu with
  | .error e => .fault e
  | .ok (m, rest) =>
    f { s with
        cur := { s.cur with entry := { s.cur.entry with msg := { s.cur.entry.msg with adu := m } } }
        rxf := rest }

/-- `next(i) = (i + 1) mod QN` (R9, R24). -/
def ringNext (s : State) (i : Word) : Word := BitVec.ofNat 16 ((i.toNat + 1) % s.par.qn)

/-- The ring is empty exactly when HEAD = TAIL (R25). -/
def ringEmpty (s : State) : Bool := s.head == s.tail

/-- The ring is full exactly when next(HEAD) = TAIL (R25). -/
def ringFull (s : State) : Bool := ringNext s s.head == s.tail

/-- `silence_for(k)` in milliseconds (R196); none where k is no enumerant. -/
def silenceFor (s : State) (k : Word) : Option Nat :=
  match s.par.baudTable[k.toNat]? with
  | none => none
  | some row => if s.sil.getD k.toNat 0 = 0 then some row.dsil else some (s.sil.getD k.toNat 0).toNat

/-- `timeout_for()` (R197). -/
def timeoutFor (s : State) : Word := s.timeout

/-- `CTRL.SLOADED & CTRL.BOUND` (R216). -/
def ready (s : State) : Bool := s.ctrl.sloaded && s.ctrl.bound

/-- The lengths of a message fit its buffer and its CRC (R170, reason 8). -/
abbrev Message.lengthsLegal (cap : Nat) (m : Message) : Prop :=
  2 ≤ m.txLength.toNat ∧ m.txLength.toNat ≤ cap ∧ m.rxLength.toNat ≤ cap ∧
    (m.crcCheck = true → 2 ≤ m.rxLength.toNat)

/-- The admission test shared by SEND.A and SEND.S: the first reason that applies, if any (R170). -/
def admission (blocking : Bool) (s : State) : Option Reason :=
  if ready s = false then some .notReady
  else if blocking && (s.syncReq || s.syncBusy) then some .syncOccupied
  else if Message.lengthsLegal s.par.aduCap s.stg.msg then none
  else some .badLengths

/-- The copy of the staging message that SEND.A and SEND.S take, with the request's CRC inserted in its last two
bytes (R171, R172, R181). -/
def stagedEntry (async : Bool) (s : State) : Entry where
  msg := { s.stg.msg with adu := crcAppend s.stg.msg.adu (s.stg.msg.txLength.toNat - 2) }
  cb := s.stg.cb
  async := async
  sent := false

/-- `start_tx()` (R136): direction to transmit, receiver flushed, the frame written, the countdown armed, ES to TX. -/
def startTx (s : State) : Res :=
  if s.cur.entry.msg.txLength.toNat ≤ s.par.aduCap then
    let t := flushRx (setDirection true s)
    let t := transportWrite (Memory.bytes t.cur.entry.msg.adu 0 t.cur.entry.msg.txLength.toNat) t
    .next { t with tocnt := timeoutFor t, es := .tx }
  else .fault .aduOutOfRange

/-- `enter_silent()`, the terminal event (R150). -/
def enterSilent (s : State) : State := { s with silt0 := s.ms, es := .silent }

/-- `emit CPL{…}` for the current packet (R232). -/
def emit (kind : Kind) (code : Byte) (msg : Option Message) (s : State) : State :=
  { s with
    cpl := s.cpl ++ [{ kind := kind, async := s.cur.entry.async, code := code,
                       context := s.cur.entry.msg.context, cb := s.cur.entry.cb, msg := msg }] }

/-- The delivery of a synchronous completion (R238): the record, SYNCBUSY cleared, the terminal event. -/
def deliver (kind : Kind) (code : Byte) (msg : Option Message) (s : State) : State :=
  enterSilent { emit kind code msg s with syncBusy := false }

/-- Bytes packed four to a word, byte `i` in bits `8*(i mod 4)+7 : 8*(i mod 4)` of word `i div 4`, the unused high
bytes of the last word zero (R61(e), R88). -/
def packBytes : List Byte → List Word32
  | [] => []
  | [b0] => [(0 : BitVec 24) ++ b0]
  | [b0, b1] => [(0 : BitVec 16) ++ b1 ++ b0]
  | [b0, b1, b2] => [(0 : BitVec 8) ++ b2 ++ b1 ++ b0]
  | b0 :: b1 :: b2 :: b3 :: rest => (b3 ++ b2 ++ b1 ++ b0) :: packBytes rest

/-- The word-serialised form of a completion record on the completion port (R88). -/
def completionWords (c : Completion) : List Word32 :=
  let word0 : Word32 := kindCode c.kind ++ bit c.async ++ (0 : BitVec 5) ++ c.code ++ c.context
  match c.msg with
  | none => [word0, c.cb ++ (0 : BitVec 24)]
  | some m =>
    [word0, c.cb ++ (0 : BitVec 7) ++ bit m.crcCheck ++ m.txLength, (0 : BitVec 16) ++ m.rxLength] ++
      packBytes (Memory.bytes m.adu 0 m.rxLength.toNat)

end Sys2Proof.Machine
end

