-- ==== Sys2Proof/Machine/Flags.lean ====
section
/-! DEFINITION. The words in which flags are read: STAT, CTRL, MFLAGS and EXC (R33, R38, R23, R31, R212). There are no
arithmetic condition codes (R46). -/

namespace Sys2Proof.Machine

/-- STAT[10] CURASYNC: `CUR.async` when `CUR.valid = 1`, else 0 (R33). -/
def curAsync (s : State) : Bool := s.cur.valid && s.cur.entry.async

/-- STAT, computed from the state at the moment of the read (R33), bit 15 first. -/
def statWord (s : State) : Word :=
  (0 : BitVec 2) ++ bit s.rstPend ++ bit s.syncBusy ++ bit s.syncReq ++ bit (curAsync s) ++ bit s.dir ++
    bit s.guard ++ bit s.crcOk ++ bit (ready s) ++ bit (ringFull s) ++ bit (!ringEmpty s) ++ bit s.cur.valid ++
    stateCode s.es

/-- CTRL: `0000000000000 ++ DIREN ++ BOUND ++ SLOADED` (R38, R212). -/
def ctrlWord (c : Ctrl) : Word := (0 : BitVec 13) ++ bit c.diren ++ bit c.bound ++ bit c.sloaded

/-- MFLAGS: `STG.cb ++ 0000000 ++ STG.crc_check` (R23, R212). -/
def mflagsWord (g : Staging) : Word := g.cb ++ (0 : BitVec 7) ++ bit g.msg.crcCheck

/-- EXC: `0000000 ++ EXKIND ++ EXC` (R31, R212). -/
def excWord (s : State) : Word := (0 : BitVec 7) ++ bit s.exkind ++ s.exc

/-- The effect of a WRREG of `v` to CTRL on its three bits (R38): SLOADED and BOUND can only be set, DIREN is taken by
the write that binds and by no other. -/
def ctrlWritten (c : Ctrl) (v : Word) : Ctrl where
  sloaded := c.sloaded || v.getLsbD 0
  bound := c.bound || v.getLsbD 1
  diren := if !c.bound && v.getLsbD 1 then v.getLsbD 2 else c.diren

end Sys2Proof.Machine
end

