-- ==== Sys2Proof/Machine/Operands.lean ====
section
/-! DEFINITION. The register space (R32, R67): which register a number names, what a read gives (R212) and what a write
does (R213). -/

namespace Sys2Proof.Machine

/-- The registers of the table of R32. -/
inductive Reg where
  | crc
  | stat
  | ctrl
  | baud
  | timeout
  | txlen
  | rxlen
  | ctx
  | mflags
  | head
  | tail
  | tocnt
  | msl
  | msh
  | silt0l
  | silt0h
  | sil (k : Nat)
  | dsil (k : Nat)
  | exc
  | silact
  deriving DecidableEq, Repr

/-- The register with number `r` in a block with `nb` enumerants; none where the number is reserved (R32, R67). -/
def regOfNumber (nb r : Nat) : Option Reg :=
  match r with
  | 0x00 => some .crc
  | 0x01 => some .stat
  | 0x02 => some .ctrl
  | 0x03 => some .baud
  | 0x04 => some .timeout
  | 0x05 => some .txlen
  | 0x06 => some .rxlen
  | 0x07 => some .ctx
  | 0x08 => some .mflags
  | 0x09 => some .head
  | 0x0A => some .tail
  | 0x0B => some .tocnt
  | 0x0C => some .msl
  | 0x0D => some .msh
  | 0x0E => some .silt0l
  | 0x0F => some .silt0h
  | 0x30 => some .exc
  | 0x31 => some .silact
  | r =>
    if 0x10 ≤ r ∧ r < 0x10 + nb then some (.sil (r - 0x10))
    else if 0x20 ≤ r ∧ r < 0x20 + nb then some (.dsil (r - 0x20))
    else none

/-- `REG[r]` (R9, R212). None only for SILACT and DSIL[k] where the enumerant has no row. -/
def regValue (s : State) (r : Reg) : Option Word :=
  match r with
  | .crc => some s.crc
  | .stat => some (statWord s)
  | .ctrl => some (ctrlWord s.ctrl)
  | .baud => some s.baud
  | .timeout => some s.timeout
  | .txlen => some s.stg.msg.txLength
  | .rxlen => some s.stg.msg.rxLength
  | .ctx => some s.stg.msg.context
  | .mflags => some (mflagsWord s.stg)
  | .head => some s.head
  | .tail => some s.tail
  | .tocnt => some s.tocnt
  | .msl => some (lo16 s.ms)
  | .msh => some (hi16 s.ms)
  | .silt0l => some (lo16 s.silt0)
  | .silt0h => some (hi16 s.silt0)
  | .sil k => some (s.sil.getD k 0)
  | .dsil k => (s.par.baudTable[k]?).map (fun row => BitVec.ofNat 16 row.dsil)
  | .exc => some (excWord s)
  | .silact => (silenceFor s s.baud).map (BitVec.ofNat 16)

/-- A write of CTRL (R38): reason 2 where a reserved bit is written 1. -/
def writeCtrl (v : Word) (s : State) : Except Reason State :=
  if v.extractLsb' 3 13 = 0 then .ok { s with ctrl := ctrlWritten s.ctrl v } else .error .mustBeZero

/-- A write of BAUD (R198): reason 5 where the value is no enumerant; a legal write reprograms the transport. -/
def writeBaud (v : Word) (s : State) : Except Reason State :=
  if v.toNat < s.par.nb then .ok (setBaudRate v { s with baud := v }) else .error .badValue

/-- A write of TIMEOUT (R199): reason 5 outside TMIN..TMAX. -/
def writeTimeout (v : Word) (s : State) : Except Reason State :=
  if s.par.tmin ≤ v.toNat ∧ v.toNat ≤ s.par.tmax then .ok { s with timeout := v } else .error .badValue

/-- `REG[r] <- v` (R9, R213): the state after the write, or the reason it is refused. -/
def writeReg (r : Reg) (v : Word) (s : State) : Except Reason State :=
  match r with
  | .ctrl => writeCtrl v s
  | .baud => writeBaud v s
  | .timeout => writeTimeout v s
  | .txlen => .ok { s with stg := { s.stg with msg := { s.stg.msg with txLength := v } } }
  | .rxlen => .ok { s with stg := { s.stg with msg := { s.stg.msg with rxLength := v } } }
  | .ctx => .ok { s with stg := { s.stg with msg := { s.stg.msg with context := v } } }
  | .mflags => .ok { s with stg := { msg := { s.stg.msg with crcCheck := v.getLsbD 0 }, cb := hi8 v } }
  | .sil k => .ok { s with sil := s.sil.set k v }
  | .crc => .error .badRegister
  | .stat => .error .badRegister
  | .head => .error .badRegister
  | .tail => .error .badRegister
  | .tocnt => .error .badRegister
  | .msl => .error .badRegister
  | .msh => .error .badRegister
  | .silt0l => .error .badRegister
  | .silt0h => .error .badRegister
  | .dsil _ => .error .badRegister
  | .exc => .error .badRegister
  | .silact => .error .badRegister

end Sys2Proof.Machine
end

