-- ==== Sys2Proof/Machine/Engine.lean ====
section
/-! DEFINITION. The transaction engine: the poll function, its seven state arms, and POLL (R130 to R157). -/

namespace Sys2Proof.Machine

/-- The entry becomes the current packet, marked as sent, and its transmission starts (R135, R184, R136). -/
def startEntry (e : Entry) (s : State) : Res :=
  startTx { s with cur := { valid := true, entry := { e with sent := true } } }

/-- Idle arm (R135). -/
def idleArm (s : State) : Res :=
  if s.cur.valid = false ∧ s.syncReq = false ∧ ringEmpty s = false then
    match s.q[s.tail.toNat]? with
    | none => .fault .ringSlotAbsent
    | some e =>
      startEntry e { s with q := s.q.set s.tail.toNat { e with sent := true }, tail := ringNext s s.tail }
  else .next s

/-- TX arm (R138): once the transmitter has drained, flush the receiver, release the line, await the reply. -/
def txArm (s : State) : Res :=
  if pendingTx s = 0 then .next { setDirection false (flushRx s) with es := .awaitReply }
  else .next s

/-- Timeout of an asynchronous transaction: no record (R141). -/
def timeoutAsync (s : State) : Res := .next (enterSilent s)

/-- The three bytes of R142 have been read: an exception reply, or a timeout. -/
def inspectReply (s : State) : Res :=
  if Memory.read s.cur.entry.msg.adu 1 &&& excMask ≠ 0 then
    .next { s with exc := Memory.read s.cur.entry.msg.adu 2, exkind := true, es := .exception }
  else .next { s with es := .timeout }

/-- Timeout of a synchronous transaction (R142). -/
def timeoutSync (s : State) : Res :=
  if 3 ≤ pendingRx s then captureReply 3 inspectReply s
  else .next { s with es := .timeout }

/-- CRC mismatch (R144). -/
def replyCrcMismatch (s : State) : Res :=
  if s.cur.entry.async then .next (enterSilent (emit .crcFail codeNone none s))
  else .next { s with exc := codeNone, exkind := false, es := .exception }

/-- Verified reply (R145). -/
def replyOk (s : State) : Res :=
  if s.cur.entry.async then .next (enterSilent (emit .reply codeNone (some s.cur.entry.msg) s))
  else .next { s with es := .gotReply }

/-- Validation and classification of a captured reply (R143 to R145). -/
def classifyReply (s : State) : Res :=
  let msg := s.cur.entry.msg
  if msg.crcCheck then
    if msg.rxLength.toNat < 2 then .fault .crcLengthBelowTwo
    else if crcValid msg.adu msg.rxLength.toNat then replyOk s
    else replyCrcMismatch s
  else replyOk s

/-- Reply capture (the byte assembler), then classification (R143). -/
def captureAndClassify (s : State) : Res := captureReply s.cur.entry.msg.rxLength.toNat classifyReply s

/-- AwaitReply after its decrement: the timeout test first, then the reply test (R139). -/
def awaitDecided (s : State) : Res :=
  if s.tocnt = 0 then (if s.cur.entry.async then timeoutAsync s else timeoutSync s)
  else if s.cur.entry.msg.rxLength.toNat ≤ pendingRx s then captureAndClassify s
  else .next s

/-- AwaitReply arm (R139, R140). -/
def awaitArm (s : State) : Res := awaitDecided { s with tocnt := s.tocnt - 1 }

/-- GotReply delivery (R146). -/
def deliverReply (s : State) : State := deliver .reply codeNone (some s.cur.entry.msg) s

/-- Timeout delivery (R147). -/
def deliverTimeout (s : State) : State := deliver .timeout codeNone none s

/-- Exception delivery (R148). -/
def deliverException (s : State) : State := deliver (if s.exkind then .devExc else .crcFail) s.exc none s

/-- The ring flush of a routine reset that was waiting for the transaction to drain (R152, R254). -/
def flushIfPending (s : State) : State :=
  if s.rstPend then { s with head := s.tail, rstPend := false } else s

/-- Silent arm (R152). -/
def silentArm (s : State) : Res :=
  match silenceFor s s.baud with
  | none => .fault .baudRowAbsent
  | some d =>
    if d ≤ (s.ms - s.silt0).toNat then
      .next (flushIfPending { s with cur := { s.cur with valid := false }, es := .idle })
    else .next s

/-- The arm of the state ES holds (R132). -/
def pollArm (s : State) : Res :=
  match s.es with
  | .idle => idleArm s
  | .tx => txArm s
  | .awaitReply => awaitArm s
  | .gotReply => .next (deliverReply s)
  | .exception => .next (deliverException s)
  | .timeout => .next (deliverTimeout s)
  | .silent => silentArm s

/-- An effective poll: LASTMS and GUARD set, one arm, GUARD cleared (R132). -/
def effectivePoll (s : State) : Res :=
  andThen (pollArm { s with lastMs := s.ms, guard := true }) (fun t => .next { t with guard := false })

/-- `poll()` (R132): the tick gate and the re-entrancy guard, then an effective poll. -/
def pollOnce (s : State) : Res :=
  if s.ms = s.lastMs then .next s
  else if s.guard then .next s
  else effectivePoll s

/-- POLL (R132). -/
def execPoll (s : State) : Res := andThen (pollOnce s) (accept 0)

end Sys2Proof.Machine
end

