-- ==== Sys2Proof/Machine/Crc.lean ====
section
/-! DEFINITION. The commands of the host-visible CRC unit (R114 to R118). -/

namespace Sys2Proof.Machine

/-- The CRC of the first `n` staging bytes (R116 to R118). -/
def stagedCrc (n : Nat) (s : State) : Word := crc16 (Memory.bytes s.stg.msg.adu 0 n)

/-- The staging buffer replaced. -/
def setStagedAdu (m : Memory) (s : State) : State :=
  { s with stg := { s.stg with msg := { s.stg.msg with adu := m } } }

/-- CRC.INIT (R114). -/
def execCrcInit (s : State) : Res := accept 0xFFFF { s with crc := 0xFFFF }

/-- CRC.UPD (R115). -/
def execCrcUpd (byte : Byte) (s : State) : Res :=
  accept (crcStep s.crc byte) { s with crc := crcStep s.crc byte }

/-- CRC.BUF (R116). -/
def execCrcBuf (len : Nat) (s : State) : Res :=
  if s.par.aduCap < len then refuse .outOfRange s
  else accept (stagedCrc len s) { s with crc := stagedCrc len s }

/-- CRC.APPEND (R117). -/
def execCrcAppend (len : Nat) (s : State) : Res :=
  if s.par.aduCap < len + 2 then refuse .outOfRange s
  else accept (stagedCrc len s) (setStagedAdu (crcAppend s.stg.msg.adu len) { s with crc := stagedCrc len s })

/-- CRC.CHECK (R118). -/
def execCrcCheck (len : Nat) (s : State) : Res :=
  if len < 2 ∨ s.par.aduCap < len then refuse .outOfRange s
  else
    let ok := crcValid s.stg.msg.adu len
    accept (if ok then 1 else 0) { s with crc := stagedCrc (len - 2) s, crcOk := ok }

end Sys2Proof.Machine
end

