-- ==== Sys2Proof/Machine/Access.lean ====
section
/-! DEFINITION. The port access commands (R210 to R217) and SILDEF (R201). -/

namespace Sys2Proof.Machine

/-- NOP (R217). -/
def execNop (s : State) : Res := accept 0 s

/-- STB (R210). -/
def execStb (index : Nat) (byte : Byte) (s : State) : Res :=
  if s.par.aduCap ≤ index then refuse .outOfRange s
  else accept 0 (setStagedAdu (Memory.write s.stg.msg.adu index byte) s)

/-- LDB (R211). -/
def execLdb (index : Nat) (s : State) : Res :=
  if s.par.aduCap ≤ index then refuse .outOfRange s
  else accept ((Memory.read s.stg.msg.adu index).setWidth 16) s

/-- RDREG (R212). -/
def execRdreg (reg : Nat) (s : State) : Res :=
  match regOfNumber s.par.nb reg with
  | none => refuse .badRegister s
  | some r =>
    match regValue s r with
    | none => .fault .baudRowAbsent
    | some v => accept v s

/-- WRREG (R213). -/
def execWrreg (reg : Nat) (value : Word) (s : State) : Res :=
  match regOfNumber s.par.nb reg with
  | none => refuse .badRegister s
  | some r =>
    match writeReg r value s with
    | .error reason => refuse reason s
    | .ok t => accept 0 t

/-- GETSTATE (R214): the poll first, then the state it leaves. -/
def execGetState (s : State) : Res :=
  andThen (pollOnce s) (fun t => accept ((stateCode t.es).setWidth 16) t)

/-- ISREADY (R216). -/
def execIsReady (s : State) : Res := accept ((bit (ready s)).setWidth 16) s

/-- SILDEF (R201): every custom silence entry unset. -/
def execSilDef (s : State) : Res := accept 0 { s with sil := List.replicate s.sil.length 0 }

end Sys2Proof.Machine
end

