-- ==== Sys2Proof/Machine/Send.lean ====
section
/-! DEFINITION. The two sends (R170 to R173, R181). -/

namespace Sys2Proof.Machine

/-- The entry into slot HEAD, and HEAD to the next slot (R171). -/
def enqueue (e : Entry) (s : State) : State :=
  { s with q := s.q.set s.head.toNat e, head := ringNext s s.head }

/-- SEND.A (R171). -/
def execSendA (s : State) : Res :=
  match admission false s with
  | some reason => refuse reason s
  | none =>
    if ringFull s then accept 0 s
    else if s.q.length ≤ s.head.toNat then .fault .ringSlotAbsent
    else accept 1 (enqueue (stagedEntry true s) s)

/-- SEND.S (R181). -/
def execSendS (s : State) : Res :=
  match admission true s with
  | some reason => refuse reason s
  | none => accept 0 { s with sync := stagedEntry false s, syncReq := true }

end Sys2Proof.Machine
end

