-- ==== Sys2Proof/Machine/Reset.lean ====
section
/-! DEFINITION. The two system resets (R252 to R255). Power-on reset is a step of its own agent (Machine/Agents.lean). -/

namespace Sys2Proof.Machine

/-- RST.SOFT (R254). -/
def execRstSoft (s : State) : Res :=
  if s.es = .idle ∧ s.cur.valid = false then accept 0 { s with head := s.tail }
  else accept 0 { s with rstPend := true }

/-- RST.ABORT (R253). -/
def execRstAbort (s : State) : Res :=
  accept 0 (setDirection false
    { s with
      head := s.tail
      cur := { s.cur with valid := false }
      es := .idle
      syncReq := false
      syncBusy := false
      rstPend := false
      tocnt := 0 })

end Sys2Proof.Machine
end

