-- ==== Sys2Proof/Machine/Dispatch.lean ====
section
/-! DEFINITION. The dispatch of the 18 commands to their meanings, one arm per constructor (R82). -/

namespace Sys2Proof.Machine

def exec (i : Instr) (s : State) : Host.Outcome State Fault Refusal :=
  match i with
  | .nop => Sys2Proof.Machine.execNop s
  | .crcInit => Sys2Proof.Machine.execCrcInit s
  | .crcUpd byte => Sys2Proof.Machine.execCrcUpd byte s
  | .crcBuf len => Sys2Proof.Machine.execCrcBuf len s
  | .crcAppend len => Sys2Proof.Machine.execCrcAppend len s
  | .crcCheck len => Sys2Proof.Machine.execCrcCheck len s
  | .stb index byte => Sys2Proof.Machine.execStb index byte s
  | .ldb index => Sys2Proof.Machine.execLdb index s
  | .wrreg reg value => Sys2Proof.Machine.execWrreg reg value s
  | .rdreg reg => Sys2Proof.Machine.execRdreg reg s
  | .sendA => Sys2Proof.Machine.execSendA s
  | .sendS => Sys2Proof.Machine.execSendS s
  | .getState => Sys2Proof.Machine.execGetState s
  | .isReady => Sys2Proof.Machine.execIsReady s
  | .silDef => Sys2Proof.Machine.execSilDef s
  | .poll => Sys2Proof.Machine.execPoll s
  | .rstSoft => Sys2Proof.Machine.execRstSoft s
  | .rstAbort => Sys2Proof.Machine.execRstAbort s

end Sys2Proof.Machine
end

