-- ==== Sys2Proof/Machine/Agents.lean ====
section
/-! DEFINITION. The steps of the five agents (R10): a command word (R80, R90), TICK (R131), the two LINE steps (R51),
the two DISP steps (R184, R186) and power-on reset (R250). A step whose enabling condition does not hold leaves the
state as it is (log entry 3). -/

namespace Sys2Proof.Machine

/-- HOST: the command word is decoded and runs, or is refused with the decoder's reason (R90, R91). -/
def runCommand (w : Word32) (s : State) : Res :=
  match decode w with
  | .instr i => exec i s
  | .rejected r => refuse r s

/-- TICK (R131). -/
def tickStep (s : State) : State := { s with ms := s.ms + 1 }

/-- LINE.TXOUT (R51), enabled iff TXQ is not empty. -/
def txOutStep (s : State) : State :=
  match s.txq with
  | [] => s
  | b :: rest => { s with txq := rest, lineOut := s.lineOut ++ [(b, s.dir)] }

/-- LINE.RXIN(b) (R51). -/
def rxInStep (b : Byte) (s : State) : State := { s with rxf := s.rxf ++ [b] }

/-- DISP.GRANT is enabled (R184). -/
def grantEnabled (s : State) : Bool := s.syncReq && s.es == .idle && !s.cur.valid

/-- DISP.GRANT (R184): the blocking request takes the current packet slot and its transmission starts. -/
def grantStep (s : State) : Res :=
  if grantEnabled s then
    startEntry { s.sync with async := false }
      { s with sync := { s.sync with sent := true }, syncReq := false, syncBusy := true }
  else .next s

/-- The state is one of GotReply, Exception, Timeout (R11). -/
def terminalState (e : EngineState) : Bool := e == .gotReply || e == .exception || e == .timeout

/-- DISP.COMPLETE is enabled (R186). -/
def completeEnabled (s : State) : Bool := s.cur.valid && !s.cur.entry.async && terminalState s.es

/-- DISP.COMPLETE (R186): the delivery of the terminal state, the same as the effective poll's arm. -/
def completeStep (s : State) : State :=
  if completeEnabled s then
    match s.es with
    | .gotReply => deliverReply s
    | .timeout => deliverTimeout s
    | .exception => deliverException s
    | .idle => s
    | .tx => s
    | .awaitReply => s
    | .silent => s
  else s

/-- Power-on reset (R250): every element to its reset value, the traces emptied. The block keeps the parameters it was
built with, and the environment its coming steps. -/
def porStep (s : State) : State := { State.resetWith s.par with schedule := s.schedule }

/-- One step of the agent the event names. -/
def runEvent (e : Event) (s : State) : Res :=
  match e with
  | .command w => runCommand w s
  | .tick => .next (tickStep s)
  | .txOut => .next (txOutStep s)
  | .rxIn b => .next (rxInStep b s)
  | .dispGrant => grantStep s
  | .dispComplete => .next (completeStep s)
  | .por => .next (porStep s)

/-- The word that `withFetchWord` presents: `w`'s lowest `nbits` bits (log entry 9). -/
def fetchedWord (nbits w : Nat) : Word32 := BitVec.ofNat 32 (w % 2 ^ nbits)

end Sys2Proof.Machine
end

