-- ==== Sys2Proof/Machine/Step.lean ====
section
/-! DEFINITION. One step: the next scheduled event of the next agent (R10, R70; log entry 2). -/

namespace Sys2Proof.Machine

/-- Take the next scheduled event and run it; with nothing scheduled the block holds its state (R247, R251). -/
def step (s : State) : Host.Outcome State Fault Refusal :=
  match s.schedule with
  | [] => .next s
  | e :: rest => runEvent e { s with schedule := rest }

/-- The command word `w` presented on the command port ahead of every other scheduled step (log entry 9). -/
def State.withFetchWord (s : State) (nbits w : Nat) : State :=
  { s with schedule := .command (fetchedWord nbits w) :: s.schedule }

end Sys2Proof.Machine
end

