-- ==== Sys2Proof/Safety.lean ====
section
/-! DEFINITION. What a run must keep: the invariant of R54, with what it takes to be kept by every step, and the ring
read as a queue. A run is safe while no step faults or refuses. -/

namespace Sys2Proof

open Sys2Proof.Machine

/-- The machine went on. -/
def Runs (r : Host.Outcome State Fault Refusal) : Prop := ∃ t, r = .next t

/-- The number of waiting entries, `(HEAD - TAIL) mod QN` (R25). -/
def waitingCount (s : State) : Nat := (s.head.toNat + s.par.qn - s.tail.toNat) % s.par.qn

/-- The waiting entries of the ring, the next to be consumed first (R25, R174). -/
def waiting (s : State) : List Entry :=
  (List.range (waitingCount s)).filterMap (fun k => s.q[(s.tail.toNat + k) % s.par.qn]?)

/-- An ADU buffer of `cap` bytes in its canonical form. -/
abbrev AduGood (cap : Nat) (m : Memory) : Prop := Memory.wf m ∧ Memory.within m cap

/-- What SEND.A leaves in the ring: legal lengths, asynchronous, not yet sent (R170, R171). -/
abbrev WaitingGood (cap : Nat) (e : Entry) : Prop :=
  Message.lengthsLegal cap e.msg ∧ e.async = true ∧ e.sent = false

/-- The invariant. Fields named after R54's letters say which of its parts they are; the others are what makes it
inductive, each with its rule. -/
structure BlockInv (s : State) : Prop where
  /-- The parameters are legal (R6). -/
  parLegal : s.par.Legal
  /-- Q has QN slots (R25). -/
  qLength : s.q.length = s.par.qn
  /-- SIL has NB entries (R41). -/
  silLength : s.sil.length = s.par.nb
  /-- The four kinds of ADU buffers are canonical and inside ADU_CAP (R60). -/
  stgAdu : AduGood s.par.aduCap s.stg.msg.adu
  qAdu : ∀ e ∈ s.q, AduGood s.par.aduCap e.msg.adu
  syncAdu : AduGood s.par.aduCap s.sync.msg.adu
  curAdu : AduGood s.par.aduCap s.cur.entry.msg.adu
  /-- R54(a). -/
  idleIff : s.es = .idle ↔ s.cur.valid = false
  /-- R54(b). -/
  terminalSync : terminalState s.es = true → s.cur.valid = true ∧ s.cur.entry.async = false
  /-- R54(c). -/
  busyInFlight : s.syncBusy = true →
    s.cur.valid = true ∧ s.cur.entry.async = false ∧ s.es ≠ .idle ∧ s.es ≠ .silent
  /-- A synchronous transaction not yet delivered is marked busy (R26, R182). -/
  inFlightBusy : s.cur.valid = true → s.cur.entry.async = false → s.es ≠ .silent → s.syncBusy = true
  /-- R54(d). -/
  requestNotBusy : s.syncReq = true → s.syncBusy = false
  /-- R54(e), and in TX already (R136). -/
  countdownArmed : s.es = .tx ∨ s.es = .awaitReply → 1 ≤ s.tocnt.toNat ∧ s.tocnt.toNat ≤ s.par.tmax
  /-- R54(f). -/
  guardClear : s.guard = false
  headInRing : s.head.toNat < s.par.qn
  tailInRing : s.tail.toNat < s.par.qn
  baudInTable : s.baud.toNat < s.par.nb
  timeoutInRange : s.par.tmin ≤ s.timeout.toNat ∧ s.timeout.toNat ≤ s.par.tmax
  /-- The current packet passed the admission test and is marked sent (R170, R135, R184). -/
  curLegal : s.cur.valid = true → Message.lengthsLegal s.par.aduCap s.cur.entry.msg ∧ s.cur.entry.sent = true
  /-- A pending blocking request passed the admission test (R170, R181). -/
  syncLegal : s.syncReq = true → Message.lengthsLegal s.par.aduCap s.sync.msg
  /-- `SYNC.async` is always 0 (R26). -/
  syncSync : s.sync.async = false
  /-- Every waiting entry passed the admission test (R170, R171). -/
  waitingLegal : ∀ e ∈ waiting s, WaitingGood s.par.aduCap e
  /-- Nothing is waiting, pending or in flight before the block is ready (R170, R216). -/
  readyFirst : s.head ≠ s.tail ∨ s.syncReq = true ∨ s.cur.valid = true → ready s = true
  /-- DIREN is set only by the write that binds (R38). -/
  direnBound : s.ctrl.diren = true → s.ctrl.bound = true
  /-- DIR is 1 exactly in TX and with direction control (R244, R48). -/
  dirLevel : s.dir = (s.ctrl.diren && s.es == .tx)
  /-- RSTPEND waits for a transaction in flight (R36). -/
  pendingInFlight : s.rstPend = true → s.cur.valid = true
  /-- The latch holds `CODE_NONE` unless it holds a device code (R31). -/
  excCode : s.exkind = false → s.exc = codeNone
  /-- TBAUD is the value last given to BAUD, or none (R198, R240). -/
  tbaudIsBaud : s.tbaud = some s.baud ∨ (s.tbaud = none ∧ s.baud = 0)

end Sys2Proof
end

