-- ==== Sys2Proof/Certificates/Slice0/Obligations.lean ====
section
/-! DEFINITION. The statements for the provers, from the numbered rules of spec/. The definitions of the first part write
the rules' own tables and values down a second time, in other words than the machine's, so that a statement compares
the two. -/

namespace Sys2Proof.Claims

open Sys2Proof.Machine

/-- One more response word (R84). -/
def answered (w : Word32) (s : State) : State := { s with rsp := s.rsp ++ [w] }

/-- The answer of an accepted command, `respond(0, v)` (R84). -/
def accepted (v : Word) (s : State) : State := answered (v.setWidth 32) s

/-- The answer of a refused command, `respond(1, n)`, and no other change (R84, R90). -/
def refusedFor (n : Nat) (s : State) : State := answered (BitVec.ofNat 32 (0x80000000 + n)) s

/-- The event `e` is the next step. -/
def scheduled (e : Event) (s : State) : State := { s with schedule := e :: s.schedule }

/-- A step on the command word `w` is a refusal with reason `n`. -/
def RefusedWord (w : Word32) (n : Nat) : Prop :=
  ∀ s : State, step (scheduled (.command w) s) = .next (refusedFor n s)

/-- The encoding of a command without operands: opcode `op`, every other bit zero, any other operand refused with
reason 2 (R81). -/
def BareEncoding (op : Byte) (i : Instr) : Prop :=
  ∀ w : Word32, opField w = op →
    if aField w = 0 ∧ vField w = 0 then decode w = .instr i else RefusedWord w 2

/-- The encoding of a command whose one operand is the length in V (R116 to R118). -/
def LengthEncoding (op : Byte) (i : Nat → Instr) : Prop :=
  ∀ w : Word32, opField w = op →
    if aField w = 0 then decode w = .instr (i (vField w).toNat) else RefusedWord w 2

/-- The encoding of a command whose one operand is the number in A (R211, R212). -/
def NumberEncoding (op : Byte) (i : Nat → Instr) : Prop :=
  ∀ w : Word32, opField w = op →
    if vField w = 0 then decode w = .instr (i (aField w).toNat) else RefusedWord w 2

/-- The opcodes of R82. -/
def opcodes : List Byte :=
  [0x00, 0x01, 0x02, 0x03, 0x04, 0x05, 0x10, 0x11, 0x12, 0x13] ++ [0x20, 0x21, 0x22, 0x23, 0x24, 0x30, 0x3E, 0x3F]

/-- The low and the high byte of a CRC (R8). -/
def lowByte (c : Word) : Byte := c.setWidth 8
def highByte (c : Word) : Byte := (c >>> 8).setWidth 8

/-- One turn of R111's loop on numbers: halve, and XOR in 0xA001 when the bit that fell out was 1. -/
def halvedByRule (c : Nat) : Nat := if c % 2 = 1 then (c / 2) ^^^ 0xA001 else c / 2

/-- `crc_step(c, b)` by R111 on numbers: XOR, then eight turns of the loop. -/
def crcStepByRule (c b : Nat) : Nat := (List.range 8).foldl (fun r _ => halvedByRule r) (c ^^^ b)

/-- The first `n` bytes of a buffer in increasing order. -/
def inOrder (m : Memory) (n : Nat) : List Byte := (List.range n).map (Memory.read m)

/-- `m'` is `m` with the two bytes of `c` at `i` and `i + 1`, low byte first, and every other byte as in `m`. -/
def CrcStored (m m' : Memory) (i : Nat) (c : Word) : Prop :=
  Memory.read m' i = lowByte c ∧ Memory.read m' (i + 1) = highByte c ∧
    ∀ j, j ≠ i → j ≠ i + 1 → Memory.read m' j = Memory.read m j

/-- `m'` is `m` with the bytes `bs` at 0, 1, … and every other byte as in `m`. -/
def FrontStored (m m' : Memory) (bs : List Byte) : Prop :=
  (∀ j, (h : j < bs.length) → Memory.read m' j = bs[j]) ∧
    ∀ j, bs.length ≤ j → Memory.read m' j = Memory.read m j

/-- The staging buffer replaced, nothing else. -/
def withStagedAdu (m : Memory) (s : State) : State :=
  { s with stg := { s.stg with msg := { s.stg.msg with adu := m } } }

/-- The current packet's buffer replaced, nothing else. -/
def withCurAdu (m : Memory) (s : State) : State :=
  { s with cur := { s.cur with entry := { s.cur.entry with msg := { s.cur.entry.msg with adu := m } } } }

/-- `next(i)` (R9). -/
def nextIndex (s : State) (i : Word) : Word := BitVec.ofNat 16 ((i.toNat + 1) % s.par.qn)

/-- The silence in force, `silence_for(BAUD)` (R196), for a BAUD in the table. -/
def silenceNow (s : State) : Nat :=
  if s.sil.getD s.baud.toNat 0 = 0 then ((s.par.baudTable[s.baud.toNat]?).map BaudRow.dsil).getD 0
  else (s.sil.getD s.baud.toNat 0).toNat

/-- A poll is effective (R132). -/
def PollEffective (s : State) : Prop := s.ms ≠ s.lastMs ∧ s.guard = false

/-- The codes of the engine states (R28). -/
def engineCode (e : EngineState) : Word :=
  match e with
  | .idle => 0
  | .tx => 1
  | .awaitReply => 2
  | .gotReply => 3
  | .exception => 4
  | .timeout => 5
  | .silent => 6

/-- A flag as a number at a bit position. -/
def flagAt (b : Bool) (n : Nat) : Nat := if b then 2 ^ n else 0

/-- STAT by the table of R33. -/
def statTable (s : State) : Nat :=
  (engineCode s.es).toNat + flagAt s.cur.valid 3 + flagAt (decide (s.head ≠ s.tail)) 4 +
    flagAt (decide (nextIndex s s.head = s.tail)) 5 + flagAt (s.ctrl.sloaded && s.ctrl.bound) 6 +
    flagAt s.crcOk 7 + flagAt s.guard 8 + flagAt s.dir 9 + flagAt (s.cur.valid && s.cur.entry.async) 10 +
    flagAt s.syncReq 11 + flagAt s.syncBusy 12 + flagAt s.rstPend 13

/-- What RDREG answers for each register number by the tables of R32 and R212; none for a reserved number. -/
def registerTable (s : State) (r : Nat) : Option Nat :=
  if r = 0x00 then some s.crc.toNat
  else if r = 0x01 then some (statTable s)
  else if r = 0x02 then some (flagAt s.ctrl.sloaded 0 + flagAt s.ctrl.bound 1 + flagAt s.ctrl.diren 2)
  else if r = 0x03 then some s.baud.toNat
  else if r = 0x04 then some s.timeout.toNat
  else if r = 0x05 then some s.stg.msg.txLength.toNat
  else if r = 0x06 then some s.stg.msg.rxLength.toNat
  else if r = 0x07 then some s.stg.msg.context.toNat
  else if r = 0x08 then some (flagAt s.stg.msg.crcCheck 0 + 256 * s.stg.cb.toNat)
  else if r = 0x09 then some s.head.toNat
  else if r = 0x0A then some s.tail.toNat
  else if r = 0x0B then some s.tocnt.toNat
  else if r = 0x0C then some (s.ms.toNat % 65536)
  else if r = 0x0D then some (s.ms.toNat / 65536)
  else if r = 0x0E then some (s.silt0.toNat % 65536)
  else if r = 0x0F then some (s.silt0.toNat / 65536)
  else if r = 0x30 then some (s.exc.toNat + flagAt s.exkind 8)
  else if r = 0x31 then some (silenceNow s)
  else if 0x10 ≤ r ∧ r - 0x10 < s.par.nb then some (s.sil.getD (r - 0x10) 0).toNat
  else if 0x20 ≤ r ∧ r - 0x20 < s.par.nb then (s.par.baudTable[r - 0x20]?).map BaudRow.dsil
  else none

/-- The lengths of the staging message are legal by R170's reason 8. -/
def StagedLengthsLegal (s : State) : Prop :=
  2 ≤ s.stg.msg.txLength.toNat ∧ s.stg.msg.txLength.toNat ≤ s.par.aduCap ∧
    s.stg.msg.rxLength.toNat ≤ s.par.aduCap ∧ (s.stg.msg.crcCheck = true → 2 ≤ s.stg.msg.rxLength.toNat)

/-- SLOADED and BOUND are both set (R216). -/
def IsReady (s : State) : Prop := s.ctrl.sloaded = true ∧ s.ctrl.bound = true

/-- What `start_tx()` leaves (R136), with the entry already in CUR. -/
def transmitting (s : State) : State :=
  { s with
    dir := if s.ctrl.diren then true else s.dir
    rxf := []
    txq := s.txq ++ inOrder s.cur.entry.msg.adu s.cur.entry.msg.txLength.toNat
    tocnt := s.timeout
    es := .tx }

/-- The entry in CUR, valid and marked sent (R135, R184). -/
def inFlight (e : Entry) (s : State) : State := { s with cur := ⟨true, { e with sent := true }⟩ }

/-- What a poll that has run its arm leaves beside the arm's own effect (R132). -/
def polled (s : State) : State := { s with lastMs := s.ms, guard := false }

/-- The record of the current packet with this kind, code and message (R144 to R148). -/
def recordOf (s : State) (kind : Kind) (code : Byte) (msg : Option Message) : Completion :=
  ⟨kind, s.cur.entry.async, code, s.cur.entry.msg.context, s.cur.entry.cb, msg⟩

/-- The terminal event with this record (R150, R232). -/
def endedWith (c : Completion) (s : State) : State :=
  { s with cpl := s.cpl ++ [c], silt0 := s.ms, es := .silent }

/-- A frame of at least two bytes whose last two are the CRC of the others, low byte first (R113). -/
def FrameValid (bs : List Byte) : Prop :=
  bs.drop (bs.length - 2) =
    [lowByte (crc16 (bs.take (bs.length - 2))), highByte (crc16 (bs.take (bs.length - 2)))]

/-- A reply of these bytes is accepted (R143). -/
def ReplyAccepted (s : State) (bs : List Byte) : Prop := s.cur.entry.msg.crcCheck = true → FrameValid bs

/-- The second of the first three buffered bytes has the exception bit (R142, R87). -/
def ExceptionReply (rxf : List Byte) : Prop := ∃ b0 b1 b2 rest, rxf = b0 :: b1 :: b2 :: rest ∧ b1 &&& 0x80 ≠ 0

open Classical in
/-- The successor of ES in an effective poll, by the table of R154. -/
noncomputable def pollSuccessor (s : State) : EngineState :=
  match s.es with
  | .idle => if s.head ≠ s.tail ∧ s.syncReq = false then .tx else .idle
  | .tx => if s.txq = [] then .awaitReply else .tx
  | .awaitReply =>
    if s.tocnt = 1 then
      if s.cur.entry.async then .silent else if ExceptionReply s.rxf then .exception else .timeout
    else if s.cur.entry.msg.rxLength.toNat ≤ s.rxf.length then
      if s.cur.entry.async then .silent
      else if ReplyAccepted s (s.rxf.take s.cur.entry.msg.rxLength.toNat) then .gotReply else .exception
    else .awaitReply
  | .gotReply => .silent
  | .timeout => .silent
  | .exception => .silent
  | .silent => if silenceNow s ≤ (s.ms.toNat + 2 ^ 32 - s.silt0.toNat) % 2 ^ 32 then .idle else .silent

open Classical in
/-- The successor of ES in one step, by the table of R154. -/
noncomputable def engineSuccessor (s : State) (e : Event) : EngineState :=
  match e with
  | .por => .idle
  | .dispGrant => if s.es = .idle ∧ s.syncReq = true then .tx else s.es
  | .dispComplete => if s.es = .gotReply ∨ s.es = .timeout ∨ s.es = .exception then .silent else s.es
  | .command w =>
    if decode w = .instr .rstAbort then .idle
    else if (decode w = .instr .poll ∨ decode w = .instr .getState) ∧ PollEffective s then pollSuccessor s
    else s.es
  | .tick => s.es
  | .txOut => s.es
  | .rxIn _ => s.es

/-- The event is a POLL or a GETSTATE. -/
def IsPoll (e : Event) : Prop := ∃ w, e = .command w ∧ (decode w = .instr .poll ∨ decode w = .instr .getState)

/-- The event is the command `i`. -/
def IsCommand (i : Instr) (e : Event) : Prop := ∃ w, e = .command w ∧ decode w = .instr i

/-- One tick's steps: TICK, then any steps but another tick or a reset, with a poll as the last. -/
def PolledTick (es : List Event) : Prop :=
  ∃ others p, es = .tick :: (others ++ [p]) ∧ IsPoll p ∧ ∀ e ∈ others, e ≠ .tick ∧ e ≠ .por ∧ ¬IsCommand .rstAbort e

/-- The event writes BAUD, an entry of SIL, or all of SIL (R198, R200, R201). -/
def ChangesTiming (e : Event) : Prop :=
  IsCommand .silDef e ∨ ∃ r v, IsCommand (.wrreg r v) e ∧ (r = 0x03 ∨ (0x10 ≤ r ∧ r < 0x20))

/-- The two states are the same but for contents that R25 to R27 call unspecified after reset and never read before
written: ring slots that hold no waiting entry, SYNC with no request pending, CUR's entry while it is not valid. -/
def AgreeWhereRead (s u : State) : Prop :=
  u = { s with q := u.q, sync := u.sync, cur := u.cur } ∧
    waiting u = waiting s ∧ (s.syncReq = true → u.sync = s.sync) ∧
    u.cur.valid = s.cur.valid ∧ (s.cur.valid = true → u.cur = s.cur)

/-- The values R55 states for reset, with TMIN and NB from the block's own parameters; the contents it calls
unspecified are left out. -/
def AtReset (t : State) : Prop :=
  t.crc = 0xFFFF ∧ t.crcOk = false ∧
  (t.stg.msg.context = 0 ∧ t.stg.msg.crcCheck = false ∧ t.stg.msg.txLength = 0 ∧ t.stg.msg.rxLength = 0 ∧
    t.stg.cb = 0 ∧ ∀ i, Memory.read t.stg.msg.adu i = 0) ∧
  (t.head = 0 ∧ t.tail = 0 ∧ t.syncReq = false ∧ t.syncBusy = false ∧ t.cur.valid = false) ∧
  (t.es = .idle ∧ t.tocnt = 0 ∧ t.silt0 = 0 ∧ t.exc = 0 ∧ t.exkind = false) ∧
  (t.ms = 0 ∧ t.lastMs = 0 ∧ t.guard = false ∧ t.rstPend = false) ∧
  (t.ctrl = ⟨false, false, false⟩ ∧ t.baud = 0 ∧ t.timeout.toNat = t.par.tmin ∧ t.sil = List.replicate t.par.nb 0) ∧
  (t.dir = false ∧ t.txq = [] ∧ t.rxf = [] ∧ t.tbaud = none) ∧
  (t.rsp = [] ∧ t.cpl = [] ∧ t.lineOut = [])

end Sys2Proof.Claims

open Sys2Proof Sys2Proof.Machine Sys2Proof.Claims

/-! ### Encoding and decoding -/

/-- R82, one word of every row: each decodes to its command with its operands. -/
def Obligations.SampleWordsDecodeToTheirCommands : Prop :=
  [decode 0x00000000, decode 0x01000000, decode 0x02A50000, decode 0x03000006, decode 0x0400FFFF, decode 0x05000008] =
    [.instr .nop, .instr .crcInit, .instr (.crcUpd 0xA5), .instr (.crcBuf 6), .instr (.crcAppend 0xFFFF),
      .instr (.crcCheck 8)] ∧
  [decode 0x1005000A, decode 0x11FF0000, decode 0x12120A0B, decode 0x13310000, decode 0x20000000, decode 0x21000000] =
    [.instr (.stb 5 0x0A), .instr (.ldb 255), .instr (.wrreg 0x12 0x0A0B), .instr (.rdreg 0x31), .instr .sendA,
      .instr .sendS] ∧
  [decode 0x22000000, decode 0x23000000, decode 0x24000000, decode 0x30000000, decode 0x3E000000, decode 0x3F000000] =
    [.instr .getState, .instr .isReady, .instr .silDef, .instr .poll, .instr .rstSoft, .instr .rstAbort]

/-- R80 to R82: decoding an encoded well-formed command gives it back, with every operand. -/
def Obligations.DecodeOfEncodeIsTheCommand : Prop :=
  ∀ i : Instr, i.WellFormed → decode (encode i) = .instr i

/-- R80 to R82: a word that decodes to a command is that command's only encoding, and the command is well-formed. -/
def Obligations.EncodeOfDecodeIsTheWord : Prop :=
  ∀ (w : Word32) (i : Instr), decode w = .instr i → encode i = w ∧ i.WellFormed

/-- R82: a word is the command of a row iff `w & mask = match`, and the bits outside the mask are its operands. -/
def Obligations.WordIsTheCommandIffMaskMatches : Prop :=
  ∀ w : Word32,
    (w &&& 0xFFFFFFFF = 0x00000000 ↔ decode w = .instr .nop) ∧
    (w &&& 0xFFFFFFFF = 0x01000000 ↔ decode w = .instr .crcInit) ∧
    (w &&& 0xFF00FFFF = 0x02000000 ↔ decode w = .instr (.crcUpd (w.extractLsb' 16 8))) ∧
    (w &&& 0xFFFF0000 = 0x03000000 ↔ decode w = .instr (.crcBuf (w.toNat % 65536))) ∧
    (w &&& 0xFFFF0000 = 0x04000000 ↔ decode w = .instr (.crcAppend (w.toNat % 65536))) ∧
    (w &&& 0xFFFF0000 = 0x05000000 ↔ decode w = .instr (.crcCheck (w.toNat % 65536))) ∧
    (w &&& 0xFF00FF00 = 0x10000000 ↔
      decode w = .instr (.stb (w.toNat / 65536 % 256) (w.extractLsb' 0 8))) ∧
    (w &&& 0xFF00FFFF = 0x11000000 ↔ decode w = .instr (.ldb (w.toNat / 65536 % 256))) ∧
    (w &&& 0xFF000000 = 0x12000000 ↔
      decode w = .instr (.wrreg (w.toNat / 65536 % 256) (w.extractLsb' 0 16))) ∧
    (w &&& 0xFF00FFFF = 0x13000000 ↔ decode w = .instr (.rdreg (w.toNat / 65536 % 256))) ∧
    (w &&& 0xFFFFFFFF = 0x20000000 ↔ decode w = .instr .sendA) ∧
    (w &&& 0xFFFFFFFF = 0x21000000 ↔ decode w = .instr .sendS) ∧
    (w &&& 0xFFFFFFFF = 0x22000000 ↔ decode w = .instr .getState) ∧
    (w &&& 0xFFFFFFFF = 0x23000000 ↔ decode w = .instr .isReady) ∧
    (w &&& 0xFFFFFFFF = 0x24000000 ↔ decode w = .instr .silDef) ∧
    (w &&& 0xFFFFFFFF = 0x30000000 ↔ decode w = .instr .poll) ∧
    (w &&& 0xFFFFFFFF = 0x3E000000 ↔ decode w = .instr .rstSoft) ∧
    (w &&& 0xFFFFFFFF = 0x3F000000 ↔ decode w = .instr .rstAbort)

/-- R92: a word whose opcode is none of the 18 is refused with reason 1, whatever its operands, and nothing else
changes. -/
def Obligations.ReservedOpcodesAreRefusedWithReasonOne : Prop :=
  ∀ w : Word32, opField w ∉ opcodes → RefusedWord w 1

/-- R81: a word with one of the 18 opcodes that no row of the table takes has a must-be-zero field that is not zero, and
is refused with reason 2; only WRREG has no such field. -/
def Obligations.NonzeroUnusedFieldsAreRefusedWithReasonTwo : Prop :=
  ∀ w : Word32, opField w ∈ opcodes → (∀ i, encode i ≠ w) → opField w ≠ 0x12 ∧ RefusedWord w 2

/-- R70, R80, log entries 2 and 9: a step on a scheduled command word that decodes to a command is that command's
meaning, at the state without the word in its schedule; a word presented with `withFetchWord` is the very next step. -/
def Obligations.StepRunsTheDecodedCommand : Prop :=
  (∀ (w : Word32) (i : Instr) (s : State), decode w = .instr i → step (scheduled (.command w) s) = exec i s) ∧
  (∀ (w : Nat) (i : Instr) (s : State), w < 2 ^ 32 → decodeTableWord 32 w = some i →
    step (s.withFetchWord 32 w) = exec i s)

/-- R84: every command produces exactly one response word, in its step, of the shape ERR, fifteen zeros, VAL; a refusal
carries a reason from 1 to 8. No step of another agent produces one. -/
def Obligations.EveryCommandAnswersOneResponseWord : Prop :=
  (∀ (w : Word32) (s t : State), step (scheduled (.command w) s) = .next t →
    ∃ r : Word32, t.rsp = s.rsp ++ [r] ∧ r.extractLsb' 16 15 = 0 ∧
      (r.getLsbD 31 = true → 1 ≤ r.toNat % 65536 ∧ r.toNat % 65536 ≤ 8)) ∧
  (∀ (e : Event) (s t : State), (∀ w, e ≠ .command w) → e ≠ .por → step (scheduled e s) = .next t → t.rsp = s.rsp)

/-- R90: a command that answers ERR = 1 changes no state at all, only the response is added. -/
def Obligations.RefusedCommandsChangeNothing : Prop :=
  ∀ (w r : Word32) (s t : State), step (scheduled (.command w) s) = .next t → t.rsp = s.rsp ++ [r] →
    r.getLsbD 31 = true → t = answered r s

/-! ### The CRC codec -/

/-- R111, R119(b), (c), (e): a step is R111's loop with the constant 0xA001; on the sixteen one-bit registers, lowest bit
first, it gives the listed values; the byte enters only through the XOR, and a step is linear over XOR. -/
def Obligations.CrcStepIsLinear : Prop :=
  (∀ (c : Word) (b : Byte), (crcStep c b).toNat = crcStepByRule c.toNat b.toNat) ∧
  (List.range 16).map (fun k => crcStep (1#16 <<< k) 0) =
    [0xC0C1, 0xC181, 0xC301, 0xC601, 0xCC01, 0xD801, 0xF001, 0xA001] ++
      [0x0001, 0x0002, 0x0004, 0x0008, 0x0010, 0x0020, 0x0040, 0x0080] ∧
  (∀ (c : Word) (b : Byte), crcStep c b = crcStep (c ^^^ b.setWidth 16) 0) ∧
  (∀ (c₁ c₂ : Word) (b₁ b₂ : Byte), crcStep (c₁ ^^^ c₂) (b₁ ^^^ b₂) = crcStep c₁ b₁ ^^^ crcStep c₂ b₂) ∧
  crcStep 0 0 = 0

/-- R119(d): a byte sequence followed by its CRC, low byte first, has CRC 0; validation is that residue test. -/
def Obligations.AppendedCrcLeavesResidueZero : Prop :=
  (∀ bs : List Byte, crc16 (bs ++ [lowByte (crc16 bs), highByte (crc16 bs)]) = 0) ∧
  (∀ (m : Memory) (len : Nat), 2 ≤ len → (crcValid m len = true ↔ crc16 (inOrder m len) = 0))

/-- R119(f): of two frames of the same length that differ in exactly one bit, at most one is valid. -/
def Obligations.SingleBitErrorsFailValidation : Prop :=
  ∀ (m m' : Memory) (len i k : Nat), 2 ≤ len → i < len → k < 8 →
    Memory.read m' i = Memory.read m i ^^^ (1#8 <<< k) →
    (∀ j, j < len → j ≠ i → Memory.read m' j = Memory.read m j) →
    crcValid m len = true → crcValid m' len = false

/-- R114: CRC.INIT sets CRC to 0xFFFF and answers it; nothing else changes. -/
def Obligations.CrcInitRuns : Prop :=
  (∀ s : State, exec .crcInit s = .next (accepted 0xFFFF { s with crc := 0xFFFF })) ∧ BareEncoding 0x01 .crcInit

/-- R115: CRC.UPD replaces CRC by the byte step of it and answers the new value; after CRC.INIT, the updates by
b0, b1, … leave `crc16(b0, b1, …)`. -/
def Obligations.CrcUpdRuns : Prop :=
  (∀ (b : Byte) (s : State),
    exec (.crcUpd b) s = .next (accepted (crcStep s.crc b) { s with crc := crcStep s.crc b })) ∧
  (∀ (bs : List Byte) (s : State), ∃ t : State,
    (.crcInit :: bs.map Instr.crcUpd).foldl (fun r i => andThen r (exec i)) (.next s) = .next t ∧
      t.crc = crc16 bs ∧ t = { s with crc := t.crc, rsp := t.rsp } ∧ t.rsp.length = s.rsp.length + bs.length + 1) ∧
  (∀ w : Word32, opField w = 0x02 →
    if vField w = 0 then decode w = .instr (.crcUpd (aField w)) else RefusedWord w 2)

/-- R116: CRC.BUF leaves the CRC of the first `len` staging bytes; `len = ADU_CAP` is legal, more is refused with
reason 3. -/
def Obligations.CrcBufRuns : Prop :=
  (∀ (len : Nat) (s : State), len ≤ s.par.aduCap →
    exec (.crcBuf len) s =
      .next (accepted (crc16 (inOrder s.stg.msg.adu len)) { s with crc := crc16 (inOrder s.stg.msg.adu len) })) ∧
  (∀ (len : Nat) (s : State), s.par.aduCap < len → exec (.crcBuf len) s = .next (refusedFor 3 s)) ∧
  LengthEncoding 0x03 .crcBuf

/-- R117: CRC.APPEND stores the CRC of the first `len` staging bytes after them, low byte first, and changes no other
byte, TXLEN included; `len + 2` beyond ADU_CAP is refused with reason 3. -/
def Obligations.CrcAppendRuns : Prop :=
  (∀ (len : Nat) (s : State), Memory.wf s.stg.msg.adu → len + 2 ≤ s.par.aduCap →
    ∃ m, CrcStored s.stg.msg.adu m len (crc16 (inOrder s.stg.msg.adu len)) ∧
      exec (.crcAppend len) s =
        .next (accepted (crc16 (inOrder s.stg.msg.adu len))
          (withStagedAdu m { s with crc := crc16 (inOrder s.stg.msg.adu len) }))) ∧
  (∀ (len : Nat) (s : State), s.par.aduCap < len + 2 → exec (.crcAppend len) s = .next (refusedFor 3 s)) ∧
  LengthEncoding 0x04 .crcAppend

open Classical in
/-- R118: CRC.CHECK sets CRCOK, answers it, and leaves the CRC of all but the last two bytes; a failed validation is no
refusal; a length below 2 or beyond ADU_CAP is refused with reason 3. -/
def Obligations.CrcCheckRuns : Prop :=
  (∀ (len : Nat) (s : State), 2 ≤ len → len ≤ s.par.aduCap →
    exec (.crcCheck len) s =
      .next (if FrameValid (inOrder s.stg.msg.adu len) then
          accepted 1 { s with crc := crc16 (inOrder s.stg.msg.adu (len - 2)), crcOk := true }
        else accepted 0 { s with crc := crc16 (inOrder s.stg.msg.adu (len - 2)), crcOk := false })) ∧
  (∀ (len : Nat) (s : State), len < 2 ∨ s.par.aduCap < len → exec (.crcCheck len) s = .next (refusedFor 3 s)) ∧
  LengthEncoding 0x05 .crcCheck

/-! ### Port access -/

/-- R217: NOP answers 0 and changes nothing; it does not poll. -/
def Obligations.NopRuns : Prop := (∀ s : State, exec .nop s = .next (accepted 0 s)) ∧ BareEncoding 0x00 .nop

/-- R210: STB stores the byte at the index and changes no other byte and nothing else; an index at or beyond ADU_CAP is
refused with reason 3. -/
def Obligations.StbRuns : Prop :=
  (∀ (i : Nat) (b : Byte) (s : State), Memory.wf s.stg.msg.adu → i < s.par.aduCap →
    ∃ m, Memory.read m i = b ∧ (∀ j, j ≠ i → Memory.read m j = Memory.read s.stg.msg.adu j) ∧
      exec (.stb i b) s = .next (accepted 0 (withStagedAdu m s))) ∧
  (∀ (i : Nat) (b : Byte) (s : State), s.par.aduCap ≤ i → exec (.stb i b) s = .next (refusedFor 3 s)) ∧
  (∀ w : Word32, opField w = 0x10 →
    if (vField w).toNat < 256 then decode w = .instr (.stb (aField w).toNat ((vField w).setWidth 8))
    else RefusedWord w 2)

/-- R211: LDB answers the staging byte at the index and changes nothing; an index at or beyond ADU_CAP is refused with
reason 3. -/
def Obligations.LdbRuns : Prop :=
  (∀ (i : Nat) (s : State), i < s.par.aduCap →
    exec (.ldb i) s = .next (accepted ((Memory.read s.stg.msg.adu i).setWidth 16) s)) ∧
  (∀ (i : Nat) (s : State), s.par.aduCap ≤ i → exec (.ldb i) s = .next (refusedFor 3 s)) ∧
  NumberEncoding 0x11 .ldb

/-- R32, R33, R212: RDREG answers, for every register number, the value of the tables, and changes nothing; a reserved
number is refused with reason 4. -/
def Obligations.RdregFollowsTheRegisterTable : Prop :=
  (∀ (r : Nat) (s : State), s.par.Legal → s.baud.toNat < s.par.nb →
    exec (.rdreg r) s =
      match registerTable s r with
      | some v => .next (accepted (BitVec.ofNat 16 v) s)
      | none => .next (refusedFor 4 s)) ∧
  (∀ s : State, statTable s < 65536) ∧
  NumberEncoding 0x13 .rdreg

/-- R38: a write of CTRL can only set SLOADED and BOUND, takes DIREN only when it binds, and is refused with reason 2
where a reserved bit is 1. -/
def Obligations.WrregCtrlIsSticky : Prop :=
  (∀ (v : Word) (s : State), v.toNat < 8 →
    exec (.wrreg 0x02 v) s =
      .next (accepted 0
        { s with ctrl := { sloaded := s.ctrl.sloaded || v.getLsbD 0,
                           bound := s.ctrl.bound || v.getLsbD 1,
                           diren := if s.ctrl.bound = false ∧ v.getLsbD 1 = true then v.getLsbD 2
                                    else s.ctrl.diren } })) ∧
  (∀ (v : Word) (s : State), 8 ≤ v.toNat → exec (.wrreg 0x02 v) s = .next (refusedFor 2 s)) ∧
  (∀ (e : Event) (s t : State), e ≠ .por → step (scheduled e s) = .next t →
    (s.ctrl.sloaded = true → t.ctrl.sloaded = true) ∧
    (s.ctrl.bound = true → t.ctrl.bound = true ∧ t.ctrl.diren = s.ctrl.diren))

/-- R198, R199: a legal write of BAUD also reprograms the transport, a legal write of TIMEOUT only stores it, and values
outside NB or TMIN..TMAX are refused with reason 5. -/
def Obligations.WrregBaudAndTimeoutCheckTheirRange : Prop :=
  (∀ (v : Word) (s : State), v.toNat < s.par.nb →
    exec (.wrreg 0x03 v) s = .next (accepted 0 { s with baud := v, tbaud := some v })) ∧
  (∀ (v : Word) (s : State), s.par.nb ≤ v.toNat → exec (.wrreg 0x03 v) s = .next (refusedFor 5 s)) ∧
  (∀ (v : Word) (s : State), s.par.tmin ≤ v.toNat → v.toNat ≤ s.par.tmax →
    exec (.wrreg 0x04 v) s = .next (accepted 0 { s with timeout := v })) ∧
  (∀ (v : Word) (s : State), v.toNat < s.par.tmin ∨ s.par.tmax < v.toNat →
    exec (.wrreg 0x04 v) s = .next (refusedFor 5 s))

/-- R213 (TXLEN, RXLEN, CTX, MFLAGS), R200: the staging registers take every value, MFLAGS ignores its bits 7:1, a
silence entry takes every value. -/
def Obligations.WrregStagingAndSilenceTakeEveryValue : Prop :=
  ∀ (v : Word) (s : State),
    exec (.wrreg 0x05 v) s =
      .next (accepted 0 { s with stg := { s.stg with msg := { s.stg.msg with txLength := v } } }) ∧
    exec (.wrreg 0x06 v) s =
      .next (accepted 0 { s with stg := { s.stg with msg := { s.stg.msg with rxLength := v } } }) ∧
    exec (.wrreg 0x07 v) s =
      .next (accepted 0 { s with stg := { s.stg with msg := { s.stg.msg with context := v } } }) ∧
    exec (.wrreg 0x08 v) s =
      .next (accepted 0
        { s with stg := ⟨{ s.stg.msg with crcCheck := v.getLsbD 0 }, (v >>> 8).setWidth 8⟩ }) ∧
    ∀ k, k < s.par.nb → s.par.nb ≤ 16 →
      exec (.wrreg (0x10 + k) v) s = .next (accepted 0 { s with sil := s.sil.set k v })

/-- R213, R32, R91 reason 4: a write to a read-only or a reserved register is refused with reason 4; a word with opcode
0x12 is always WRREG. -/
def Obligations.WrregToOtherRegistersIsRefused : Prop :=
  (∀ (r : Nat) (v : Word) (s : State), s.par.nb ≤ 16 →
    r ∉ [0x02, 0x03, 0x04, 0x05, 0x06, 0x07, 0x08] → ¬(0x10 ≤ r ∧ r < 0x10 + s.par.nb) →
    exec (.wrreg r v) s = .next (refusedFor 4 s)) ∧
  (∀ w : Word32, opField w = 0x12 → decode w = .instr (.wrreg (aField w).toNat (vField w)))

/-- R216: ISREADY answers SLOADED and BOUND and changes nothing; the same value is STAT[6]; no step but power-on reset
takes it from 1 back to 0. -/
def Obligations.IsReadyRuns : Prop :=
  (∀ s : State,
    exec .isReady s = .next (accepted (if s.ctrl.sloaded = true ∧ s.ctrl.bound = true then 1 else 0) s)) ∧
  (∀ s : State, ∃ w : Word, exec (.rdreg 0x01) s = .next (accepted w s) ∧ (w.getLsbD 6 = true ↔ IsReady s)) ∧
  (∀ (e : Event) (s t : State), e ≠ .por → step (scheduled e s) = .next t → IsReady s → IsReady t) ∧
  BareEncoding 0x23 .isReady

/-- R201, R196: SILDEF un-sets every custom entry, and `silence_for(k)` is then `DSIL[k]` for every k. In every state
`silence_for(k)` is SIL[k] where that is not 0 and DSIL[k] where it is, so a set entry is used as it stands. -/
def Obligations.SilDefRestoresTheDefaultTable : Prop :=
  (∀ s : State, s.sil.length = s.par.nb →
    exec .silDef s = .next (accepted 0 { s with sil := List.replicate s.par.nb 0 })) ∧
  (∀ (k : Word) (s : State) (row : BaudRow), s.par.baudTable[k.toNat]? = some row →
    silenceFor { s with sil := List.replicate s.par.nb 0 } k = some row.dsil ∧
    (∀ v : Word, s.sil[k.toNat]? = some v → silenceFor s k = some (if v ≠ 0 then v.toNat else row.dsil)) ∧
    ∀ v : Word, v ≠ 0 → s.sil.length = s.par.nb →
      silenceFor { s with sil := s.sil.set k.toNat v } k = some v.toNat) ∧
  BareEncoding 0x24 .silDef

/-- R214: GETSTATE is a full poll, the same as POLL's, and answers the code of the state the poll leaves, never 7. -/
def Obligations.GetStatePollsThenAnswersTheState : Prop :=
  (∀ s : State, BlockInv s → ∃ t : State, exec .poll s = .next (accepted 0 t) ∧
    exec .getState s = .next (accepted (engineCode t.es) t) ∧ (engineCode t.es).toNat < 7) ∧
  BareEncoding 0x22 .getState

/-- R218, R21, R37, R46, R76: what each command can write. But for the polls and the resets no command changes the
engine, the current packet, the consumer's index, the transport's queues, the line, the tick or the completions; the
ring's producer side is SEND.A's, the sync slot SEND.S's, CRC the five CRC commands', CRCOK CRC.CHECK's, the
configuration WRREG's and SILDEF's, the staging message STB's, CRC.APPEND's and WRREG's. -/
def Obligations.EachCommandWritesOnlyItsOwnState : Prop :=
  ∀ (i : Instr) (s t : State), i ∉ [.poll, .getState, .rstSoft, .rstAbort] → exec i s = .next t →
    (t.es = s.es ∧ t.cur = s.cur ∧ t.tocnt = s.tocnt ∧ t.silt0 = s.silt0 ∧ t.exc = s.exc ∧ t.exkind = s.exkind ∧
      t.lastMs = s.lastMs ∧ t.guard = s.guard ∧ t.ms = s.ms ∧ t.rstPend = s.rstPend ∧ t.tail = s.tail) ∧
    (t.dir = s.dir ∧ t.txq = s.txq ∧ t.rxf = s.rxf ∧ t.cpl = s.cpl ∧ t.lineOut = s.lineOut ∧ t.par = s.par ∧
      t.schedule = s.schedule ∧ t.syncBusy = s.syncBusy) ∧
    (i ≠ .sendA → t.q = s.q ∧ t.head = s.head) ∧
    (i ≠ .sendS → t.sync = s.sync ∧ t.syncReq = s.syncReq) ∧
    ((∀ b n, i ∉ [.crcInit, .crcUpd b, .crcBuf n, .crcAppend n, .crcCheck n]) → t.crc = s.crc) ∧
    ((∀ n, i ≠ .crcCheck n) → t.crcOk = s.crcOk) ∧
    ((∀ r v, i ≠ .wrreg r v) →
      t.ctrl = s.ctrl ∧ t.baud = s.baud ∧ t.timeout = s.timeout ∧ t.tbaud = s.tbaud ∧ (i ≠ .silDef → t.sil = s.sil)) ∧
    ((∀ r v n b, i ∉ [.wrreg r v, .stb n b, .crcAppend n]) → t.stg = s.stg)

/-! ### Sends -/

/-- R170: a send is refused with the first reason that applies: 6 not ready, 7 (SEND.S only) a blocking request pending
or in progress, 8 illegal lengths. -/
def Obligations.SendsAreRefusedInOrder : Prop :=
  ∀ s : State,
    (¬IsReady s → exec .sendA s = .next (refusedFor 6 s) ∧ exec .sendS s = .next (refusedFor 6 s)) ∧
    (IsReady s → s.syncReq = true ∨ s.syncBusy = true → exec .sendS s = .next (refusedFor 7 s)) ∧
    (IsReady s → ¬StagedLengthsLegal s → exec .sendA s = .next (refusedFor 8 s)) ∧
    (IsReady s → s.syncReq = false → s.syncBusy = false → ¬StagedLengthsLegal s →
      exec .sendS s = .next (refusedFor 8 s))

/-- R171, R172: SEND.A into a ring that is not full puts a copy of the staging message, its CRC inserted in the last two
of its `tx_length` bytes, into slot HEAD and moves HEAD; into a full ring it changes nothing and answers 0. -/
def Obligations.SendAEnqueuesACopyOrReportsFull : Prop :=
  (∀ s : State, IsReady s → StagedLengthsLegal s → nextIndex s s.head = s.tail →
    exec .sendA s = .next (accepted 0 s)) ∧
  (∀ s : State, IsReady s → StagedLengthsLegal s → nextIndex s s.head ≠ s.tail → s.head.toNat < s.q.length →
    Memory.wf s.stg.msg.adu →
    ∃ m, CrcStored s.stg.msg.adu m (s.stg.msg.txLength.toNat - 2)
        (crc16 (inOrder s.stg.msg.adu (s.stg.msg.txLength.toNat - 2))) ∧
      exec .sendA s =
        .next (accepted 1
          { s with q := s.q.set s.head.toNat ⟨{ s.stg.msg with adu := m }, s.stg.cb, true, false⟩,
                   head := nextIndex s s.head })) ∧
  BareEncoding 0x20 .sendA

/-- R181, R172: SEND.S latches the same kind of copy in SYNC and sets SYNCREQ; the ring is not involved and nothing is
transmitted. -/
def Obligations.SendSLatchesTheRequest : Prop :=
  (∀ s : State, IsReady s → s.syncReq = false → s.syncBusy = false → StagedLengthsLegal s →
    Memory.wf s.stg.msg.adu →
    ∃ m, CrcStored s.stg.msg.adu m (s.stg.msg.txLength.toNat - 2)
        (crc16 (inOrder s.stg.msg.adu (s.stg.msg.txLength.toNat - 2))) ∧
      exec .sendS s =
        .next (accepted 0
          { s with sync := ⟨{ s.stg.msg with adu := m }, s.stg.cb, false, false⟩, syncReq := true })) ∧
  BareEncoding 0x21 .sendS

/-- R156(a), R173, R174, R175: the ring is a strict FIFO queue of at most QN - 1 entries. In every step it stays as it
is, or SEND.A appends the staged copy at its end (and answers 1), or the start of a transmission from Idle removes its
first entry and makes it the current packet, or a reset empties it. -/
def Obligations.RingIsAStrictFifo : Prop :=
  ∀ (e : Event) (s t : State), BlockInv s → step (scheduled e s) = .next t →
    (waiting s).length < s.par.qn ∧ (ringFull s = true ↔ (waiting s).length = s.par.qn - 1) ∧
    (ringEmpty s = true ↔ waiting s = []) ∧
    (waiting t = waiting s ∨
      (IsCommand .sendA e ∧ t.rsp = s.rsp ++ [1] ∧ waiting t = waiting s ++ [stagedEntry true s]) ∨
      (IsPoll e ∧ s.es = .idle ∧ t.es = .tx ∧
        ∃ x, waiting s = x :: waiting t ∧ t.cur = ⟨true, { x with sent := true }⟩) ∨
      (waiting t = [] ∧
        (e = .por ∨ IsCommand .rstAbort e ∨ (IsCommand .rstSoft e ∧ s.es = .idle) ∨
          (IsPoll e ∧ s.rstPend = true ∧ s.es = .silent ∧ t.es = .idle))))

/-! ### The engine -/

/-- R132, R131, R259: a poll in a tick that has been used (LASTMS = MS), or under the guard, changes nothing, and POLL
still answers 0. An effective POLL or GETSTATE leaves LASTMS at MS and GUARD clear, and LASTMS = MS is kept by every step
of every agent but TICK, so of two polls with no tick between them the second is ineffective, whatever steps stand
between. After power-on reset LASTMS = MS holds as well. -/
def Obligations.OnePollPerTickIsEffective : Prop :=
  (∀ s : State, s.ms = s.lastMs ∨ s.guard = true →
    exec .poll s = .next (accepted 0 s) ∧ exec .getState s = .next (accepted (engineCode s.es) s)) ∧
  (∀ s t : State, exec .poll s = .next t →
    exec .poll t = .next (accepted 0 t) ∧ (PollEffective s → t.lastMs = t.ms ∧ t.ms = s.ms ∧ t.guard = false)) ∧
  (∀ (e : Event) (s t : State), IsPoll e → PollEffective s → step (scheduled e s) = .next t →
    t.lastMs = t.ms ∧ t.ms = s.ms ∧ t.guard = false) ∧
  (∀ (e : Event) (s t : State), e ≠ .tick → step (scheduled e s) = .next t → s.lastMs = s.ms → t.lastMs = t.ms) ∧
  (∀ s t : State, step (scheduled .por s) = .next t → t.lastMs = t.ms) ∧
  BareEncoding 0x30 .poll

/-- R135, R136, R231(a), R183: an effective poll in Idle with a waiting entry and no blocking request starts the entry at
TAIL; with an empty ring or a blocking request pending it only uses the tick. -/
def Obligations.IdlePollStartsTheNextEntryOrOnlyUsesTheTick : Prop :=
  (∀ (s : State) (e : Entry), PollEffective s → s.es = .idle → s.cur.valid = false → s.syncReq = false →
    s.head ≠ s.tail → s.q[s.tail.toNat]? = some e → e.msg.txLength.toNat ≤ s.par.aduCap →
    exec .poll s =
      .next (accepted 0 (polled (transmitting (inFlight e
        { s with q := s.q.set s.tail.toNat { e with sent := true }, tail := nextIndex s s.tail }))))) ∧
  (∀ s : State, PollEffective s → s.es = .idle → (s.head = s.tail ∨ s.syncReq = true ∨ s.cur.valid = true) →
    exec .poll s = .next (accepted 0 (polled s)))

/-- R138: in TX, an effective poll waits while bytes are pending; once none is, it flushes the receiver, releases the
line and goes to AwaitReply. -/
def Obligations.TxPollWaitsThenTurnsTheLineRound : Prop :=
  ∀ s : State, PollEffective s → s.es = .tx →
    (s.txq ≠ [] → exec .poll s = .next (accepted 0 (polled s))) ∧
    (s.txq = [] → exec .poll s =
      .next (accepted 0 (polled
        { s with rxf := [], dir := if s.ctrl.diren then false else s.dir, es := .awaitReply })))

/-- R139, R140: in AwaitReply, with the countdown not reaching zero and fewer than `rx_length` bytes buffered, an
effective poll only counts down. -/
def Obligations.AwaitPollCountsDown : Prop :=
  ∀ s : State, PollEffective s → s.es = .awaitReply → s.tocnt ≠ 1 →
    s.rxf.length < s.cur.entry.msg.rxLength.toNat →
    exec .poll s = .next (accepted 0 (polled { s with tocnt := s.tocnt - 1 }))

/-- R141: the timeout of an asynchronous transaction enters Silent without a record and reads no byte of RXF, whatever
is buffered. -/
def Obligations.AsyncTimeoutIsSilent : Prop :=
  ∀ s : State, PollEffective s → s.es = .awaitReply → s.tocnt = 1 → s.cur.entry.async = true →
    exec .poll s = .next (accepted 0 (polled { s with tocnt := 0, silt0 := s.ms, es := .silent }))

/-- R142: the timeout of a synchronous transaction reads three bytes if three are buffered; the exception bit of the
second makes it an Exception with the third as its code, anything else a Timeout. That the bit is 0x80 of the second byte
and the code the third byte, and so the count of three, is PRESUMED (log entry 10: R142 takes it from general
knowledge). -/
def Obligations.SyncTimeoutInspectsThreeBytes : Prop :=
  ∀ s : State, PollEffective s → s.es = .awaitReply → s.tocnt = 1 → s.cur.entry.async = false →
    (s.rxf.length < 3 →
      exec .poll s = .next (accepted 0 (polled { s with tocnt := 0, es := .timeout }))) ∧
    (∀ b0 b1 b2 rest, s.rxf = b0 :: b1 :: b2 :: rest → 3 ≤ s.par.aduCap → Memory.wf s.cur.entry.msg.adu →
      ∃ m, FrontStored s.cur.entry.msg.adu m [b0, b1, b2] ∧
        exec .poll s =
          .next (accepted 0 (polled (withCurAdu m
            (if b1 &&& 0x80 ≠ 0 then
              { s with tocnt := 0, rxf := rest, exc := b2, exkind := true, es := .exception }
            else { s with tocnt := 0, rxf := rest, es := .timeout })))))

open Classical in
/-- R139, R143, R144, R145: with the countdown not reaching zero and `rx_length` bytes buffered, an effective poll reads
exactly those, oldest first, and classifies: accepted or not by the CRC check, asynchronous with a record and Silent,
synchronous without one to GotReply or Exception. -/
def Obligations.AwaitPollCapturesAndClassifies : Prop :=
  ∀ (s : State) (bs rest : List Byte), PollEffective s → s.es = .awaitReply → s.tocnt ≠ 1 → s.rxf = bs ++ rest →
    bs.length = s.cur.entry.msg.rxLength.toNat → bs.length ≤ s.par.aduCap → Memory.wf s.cur.entry.msg.adu →
    (s.cur.entry.msg.crcCheck = true → 2 ≤ bs.length) →
    ∃ m, FrontStored s.cur.entry.msg.adu m bs ∧
      let c := withCurAdu m { s with tocnt := s.tocnt - 1, rxf := rest }
      exec .poll s =
        .next (accepted 0 (polled
          (if ReplyAccepted s bs then
            if s.cur.entry.async then endedWith (recordOf c .reply 0x00 (some c.cur.entry.msg)) c
            else { c with es := .gotReply }
          else
            if s.cur.entry.async then endedWith (recordOf c .crcFail 0x00 none) c
            else { c with exc := 0x00, exkind := false, es := .exception })))

/-- R146, R147, R148: an effective poll in GotReply, Timeout or Exception delivers its one record, clears SYNCBUSY and
enters Silent. An Exception's code is EXC: for EXKIND = 1 the device's byte, whatever its value; for EXKIND = 0 it is
CODE_NONE, given that the latch holds CODE_NONE then (R31; a part of the invariant). -/
def Obligations.TerminalPollDeliversTheRecord : Prop :=
  ∀ s : State, PollEffective s →
    (s.es = .gotReply → exec .poll s =
      .next (accepted 0 (polled
        (endedWith (recordOf s .reply 0x00 (some s.cur.entry.msg)) { s with syncBusy := false })))) ∧
    (s.es = .timeout → exec .poll s =
      .next (accepted 0 (polled (endedWith (recordOf s .timeout 0x00 none) { s with syncBusy := false })))) ∧
    (s.es = .exception → exec .poll s =
      .next (accepted 0 (polled
        (endedWith (recordOf s (if s.exkind then .devExc else .crcFail) s.exc none) { s with syncBusy := false })))) ∧
    (s.es = .exception → (s.exkind = false → s.exc = 0x00) →
      exec .poll s = .next (accepted 0 (polled
        (if s.exkind then endedWith (recordOf s .devExc s.exc none) { s with syncBusy := false }
         else endedWith (recordOf s .crcFail 0x00 none) { s with syncBusy := false }))))

/-- R152: in Silent, an effective poll holds until MS has advanced by the silence in force, modulo 2^32; then it frees
the slot, returns to Idle and, with RSTPEND, flushes the ring. -/
def Obligations.SilentPollHoldsForTheSilence : Prop :=
  ∀ s : State, PollEffective s → s.es = .silent → s.baud.toNat < s.par.nb →
    ((s.ms.toNat + 2 ^ 32 - s.silt0.toNat) % 2 ^ 32 < silenceNow s →
      exec .poll s = .next (accepted 0 (polled s))) ∧
    (silenceNow s ≤ (s.ms.toNat + 2 ^ 32 - s.silt0.toNat) % 2 ^ 32 → exec .poll s =
      .next (accepted 0 (polled
        { s with cur := ⟨false, s.cur.entry⟩, es := .idle,
                 head := if s.rstPend then s.tail else s.head, rstPend := false })))

/-- R154: in every step from a state of the invariant, ES goes where the table says, and nowhere else. What counts as an
exception reply in the row from AwaitReply to Exception (0x80 of the second of three bytes) is PRESUMED (log entry
10). -/
def Obligations.EngineStateFollowsTheTransitionTable : Prop :=
  ∀ (e : Event) (s t : State), BlockInv s → step (scheduled e s) = .next t → t.es = engineSuccessor s e

/-- R157, R21, R37, R23, R51: no poll, no dispatcher step, no tick and neither of the line's two steps writes STG, CRC,
CRCOK, the configuration or TBAUD. Of them only LINE.TXOUT takes a byte of TXQ, the oldest; the others keep what is queued
and add bytes only from Idle. -/
def Obligations.EngineStepsLeaveTheHostsStateAlone : Prop :=
  ∀ (e : Event) (s t : State),
    IsPoll e ∨ e = .dispGrant ∨ e = .dispComplete ∨ e = .tick ∨ e = .txOut ∨ (∃ b, e = .rxIn b) →
    step (scheduled e s) = .next t →
    t.stg = s.stg ∧ t.crc = s.crc ∧ t.crcOk = s.crcOk ∧ t.ctrl = s.ctrl ∧ t.baud = s.baud ∧ t.timeout = s.timeout ∧
      t.sil = s.sil ∧ t.tbaud = s.tbaud ∧ t.par = s.par ∧
      (e = .txOut → t.txq = s.txq.drop 1) ∧
      (e ≠ .txOut → ∃ bs, t.txq = s.txq ++ bs ∧ (bs ≠ [] → s.es = .idle))

/-- R131, R35, R51, R236: the tick adds 1 to MS modulo 2^32 and writes nothing else; the line's two steps move one byte
each; no step but the tick and power-on reset changes MS, and none but LINE.TXOUT and power-on reset LINEOUT. R51 enables
LINE.TXOUT only while TXQ holds a byte; that a scheduled TXOUT with TXQ empty leaves the state as it is, is the model's
choice (log entry 3, DESIGN CHOICE). -/
def Obligations.TickAndLineSteps : Prop :=
  (∀ s : State, step (scheduled .tick s) = .next { s with ms := BitVec.ofNat 32 (s.ms.toNat + 1) }) ∧
  (∀ (b : Byte) (s : State), step (scheduled (.rxIn b) s) = .next { s with rxf := s.rxf ++ [b] }) ∧
  (∀ s : State, s.txq = [] → step (scheduled .txOut s) = .next s) ∧
  (∀ (b : Byte) (rest : List Byte) (s : State), s.txq = b :: rest →
    step (scheduled .txOut s) = .next { s with txq := rest, lineOut := s.lineOut ++ [(b, s.dir)] }) ∧
  (∀ (e : Event) (s t : State), e ≠ .tick → e ≠ .por → step (scheduled e s) = .next t →
    t.ms = s.ms ∧ t.par = s.par ∧ (e ≠ .txOut → t.lineOut = s.lineOut))

/-! ### The dispatcher -/

/-- R184: DISP.GRANT moves the pending blocking request into the current packet slot and starts its transmission; it is
enabled only in Idle with a request pending, and otherwise no step of it exists (log entry 3). -/
def Obligations.GrantStartsTheBlockingRequest : Prop :=
  (∀ s : State, s.syncReq = true → s.es = .idle → s.cur.valid = false →
    s.sync.msg.txLength.toNat ≤ s.par.aduCap →
    step (scheduled .dispGrant s) =
      .next (transmitting (inFlight { s.sync with async := false }
        { s with sync := { s.sync with sent := true }, syncReq := false, syncBusy := true }))) ∧
  (∀ s : State, s.syncReq = false ∨ s.es ≠ .idle ∨ s.cur.valid = true → step (scheduled .dispGrant s) = .next s)

/-- R186, R237(d): DISP.COMPLETE has the effect of the effective poll's arm for the same terminal state, ungated by the
tick; it is enabled only for a synchronous transaction in such a state. -/
def Obligations.CompleteDeliversAsThePollWould : Prop :=
  (∀ s : State, BlockInv s → (s.es = .gotReply ∨ s.es = .timeout ∨ s.es = .exception) →
    ∃ t : State, step (scheduled .dispComplete s) = .next t ∧ t.es = .silent ∧ t.syncBusy = false ∧
      t.cpl.length = s.cpl.length + 1 ∧ t.lastMs = s.lastMs ∧
      (PollEffective s → exec .poll s = .next (accepted 0 { t with lastMs := s.ms }))) ∧
  (∀ s : State, s.cur.valid = false ∨ s.cur.entry.async = true ∨
      ¬(s.es = .gotReply ∨ s.es = .timeout ∨ s.es = .exception) →
    step (scheduled .dispComplete s) = .next s)

/-- R182, R184, R26, R186: a blocking call is pending with its slot untouched until DISP.GRANT makes it the current packet
and marks it busy; it is busy until the step that emits its one record, whose `async` is 0; only RST.ABORT and power-on
reset end it otherwise. -/
def Obligations.BlockingCallReturnsWithItsRecord : Prop :=
  ∀ (e : Event) (s t : State), BlockInv s → e ≠ .por → ¬IsCommand .rstAbort e → step (scheduled e s) = .next t →
    (s.syncReq = true →
      (t.syncReq = true ∧ t.syncBusy = false ∧ t.sync = s.sync) ∨
      (e = .dispGrant ∧ s.es = .idle ∧ t.es = .tx ∧ t.syncReq = false ∧ t.syncBusy = true ∧
        t.cur = ⟨true, { s.sync with async := false, sent := true }⟩)) ∧
    (s.syncBusy = true →
      (t.syncBusy = true ∧ t.cpl = s.cpl) ∨
      (t.syncBusy = false ∧ ∃ c : Completion, t.cpl = s.cpl ++ [c] ∧ c.async = false ∧ c.cb = s.cur.entry.cb ∧
        c.context = s.cur.entry.msg.context)) ∧
    (s.syncBusy = false → t.syncBusy = true → e = .dispGrant)

/-- R232, R233, R225: every step emits at most one record, and only in a step that enters Silent; leaving AwaitReply for
Silent emits one exactly when the countdown did not run out, leaving a terminal state always. A record carries a message
exactly if it is a REPLY, and a code only if it is a DEVEXC; TIMEOUT and DEVEXC are synchronous. -/
def Obligations.EachTransactionEndsWithAtMostOneRecord : Prop :=
  ∀ (e : Event) (s t : State), BlockInv s → e ≠ .por → step (scheduled e s) = .next t →
    ((s.es ≠ .silent ∧ t.es = .silent ∧ ¬(s.es = .awaitReply ∧ s.tocnt = 1)) →
      ∃ c : Completion, t.cpl = s.cpl ++ [c] ∧ c.async = s.cur.entry.async ∧ c.cb = s.cur.entry.cb ∧
        c.context = s.cur.entry.msg.context ∧ (c.msg.isSome = true ↔ c.kind = .reply) ∧
        (c.kind ≠ .devExc → c.code = 0x00) ∧ (c.kind = .timeout ∨ c.kind = .devExc → c.async = false)) ∧
    (¬(s.es ≠ .silent ∧ t.es = .silent ∧ ¬(s.es = .awaitReply ∧ s.tocnt = 1)) → t.cpl = s.cpl)

/-- R88, R61(e): the words of a record: two without a message; with one, two, its length, and its bytes packed four to a
word, byte i in bits 8*(i mod 4) of word 3 + i div 4, the unused high bytes zero. -/
def Obligations.RecordsSerialiseByTheLayout : Prop :=
  (∀ c : Completion, ∃ w0 w1 rest, completionWords c = w0 :: w1 :: rest ∧
    w0.toNat = (match c.kind with | .reply => 0 | .timeout => 1 | .devExc => 2 | .crcFail => 3) * 2 ^ 30 +
      flagAt c.async 29 + c.code.toNat * 2 ^ 16 + c.context.toNat ∧
    (c.msg = none → w1.toNat = c.cb.toNat * 2 ^ 24 ∧ rest = []) ∧
    (∀ m, c.msg = some m →
      w1.toNat = c.cb.toNat * 2 ^ 24 + flagAt m.crcCheck 16 + m.txLength.toNat ∧
      ∃ data, rest = m.rxLength.setWidth 32 :: data ∧ data.length = (m.rxLength.toNat + 3) / 4 ∧
        ∀ i, (h : i / 4 < data.length) →
          data[i / 4].extractLsb' (8 * (i % 4)) 8 = if i < m.rxLength.toNat then Memory.read m.adu i else 0))

/-! ### Resets -/

/-- R253: RST.ABORT flushes the ring, drops the transaction and the blocking call, clears the countdown and releases the
line; no record, and the transport's buffers and the silence timer are left. -/
def Obligations.RstAbortRuns : Prop :=
  (∀ s : State, exec .rstAbort s =
    .next (accepted 0
      { s with head := s.tail, cur := ⟨false, s.cur.entry⟩, es := .idle, syncReq := false, syncBusy := false,
               rstPend := false, tocnt := 0, dir := if s.ctrl.diren then false else s.dir })) ∧
  BareEncoding 0x3F .rstAbort

/-- R254: RST.SOFT flushes at once when nothing is in flight, else it only sets RSTPEND. -/
def Obligations.RstSoftRuns : Prop :=
  (∀ s : State, s.es = .idle → s.cur.valid = false →
    exec .rstSoft s = .next (accepted 0 { s with head := s.tail })) ∧
  (∀ s : State, s.es ≠ .idle ∨ s.cur.valid = true →
    exec .rstSoft s = .next (accepted 0 { s with rstPend := true })) ∧
  BareEncoding 0x3E .rstSoft

/-- R55, R250: the state a block with any legal parameters starts in, and the state that a power-on reset leaves, at any
time and from any state, hold the values of the table. R55 gives TXQ and RXF as empty or arbitrary: empty is the model's
choice (log entry 6, DESIGN CHOICE). That the block's parameters stay is DEDUCED (log entry 11). -/
def Obligations.PowerOnResetLeavesTheTableOfValues : Prop :=
  (∀ p : Params, p.Legal → AtReset (State.resetWith p) ∧ (State.resetWith p).par = p) ∧
  (∀ s : State, s.par.Legal → ∃ t, step (scheduled .por s) = .next t ∧ AtReset t ∧ t.par = s.par)

/-! ### The invariant and what follows -/

/-- R54, R55: the invariant holds after reset, for every legal parameter set and in the model's own reset state (log
entry 1). -/
def Obligations.InvariantHoldsAtReset : Prop :=
  (∀ p : Params, p.Legal → BlockInv (State.resetWith p)) ∧ BlockInv State.reset

/-- R54: every step of every agent keeps the invariant. -/
def Obligations.EveryStepKeepsTheInvariant : Prop :=
  ∀ s t : State, BlockInv s → step s = .next t → BlockInv t

/-- R242, R60, R113, U6: from a state of the invariant no step and no command ever stops: `T.read_byte` is never invoked
on an empty receiver, no ADU index is out of range, `crc_valid` is never applied below two bytes. -/
def Obligations.NoStepEverStops : Prop :=
  (∀ s : State, BlockInv s → ∃ t, step s = .next t) ∧ (∀ (i : Instr) (s : State), BlockInv s → ∃ t, exec i s = .next t)

/-- R25, R26, R27, U19: contents that are unspecified after reset are never read before they are written: two states that
differ in nothing else make the same step, and still differ in nothing else. -/
def Obligations.UnspecifiedContentsAreNeverRead : Prop :=
  ∀ s u t : State, BlockInv s → BlockInv u → AgreeWhereRead s u → step s = .next t →
    ∃ v, step u = .next v ∧ AgreeWhereRead t v

/-- R139, R140, R277 (X5 of 95_test_vectors.md): in AwaitReply an effective poll lowers TOCNT by exactly one or leaves
the state, and no other step but RST.ABORT and power-on reset changes either. So a transaction in AwaitReply, polled at
least once in each tick, leaves it within as many ticks as its countdown holds, whatever arrives on the line or does not
and whatever other commands and steps come between. -/
def Obligations.AwaitReplyEndsWithinItsCountdown : Prop :=
  (∀ (e : Event) (s t : State), BlockInv s → s.es = .awaitReply → step (scheduled e s) = .next t →
    (IsPoll e ∧ PollEffective s → t.es ≠ .awaitReply ∨ (t.es = .awaitReply ∧ t.tocnt.toNat + 1 = s.tocnt.toNat)) ∧
    (¬(IsPoll e ∧ PollEffective s) → e ≠ .por → ¬IsCommand .rstAbort e →
      t.es = .awaitReply ∧ t.tocnt = s.tocnt)) ∧
  (∀ (s : State) (ticks : List (List Event)) (rest : List Event), BlockInv s → s.es = .awaitReply → s.lastMs = s.ms →
    (∀ es ∈ ticks, PolledTick es) → ticks.length = s.tocnt.toNat → s.schedule = ticks.flatten ++ rest →
    ∃ n t, n ≤ ticks.flatten.length ∧ Sys2Proof.core.run n s = .next t ∧ t.es ≠ .awaitReply)

/-- R152(a), R150 (X6 of 95_test_vectors.md): after a terminal event, as long as fewer ticks than the silence in force
have passed, and no reset and no write of the timing table intervenes, the engine stays Silent and writes nothing to the
transport, whatever else happens. -/
def Obligations.NothingIsSentDuringTheSilence : Prop :=
  ∀ (n : Nat) (s t : State), BlockInv s → s.es = .silent → s.silt0 = s.ms →
    (∀ e ∈ s.schedule.take n, e ≠ .por ∧ ¬IsCommand .rstAbort e ∧ ¬ChangesTiming e) →
    ((s.schedule.take n).filter (· == .tick)).length < silenceNow s →
    Sys2Proof.core.run n s = .next t → t.es = .silent ∧ ∃ k, t.txq = s.txq.drop k
end

