-- ==== Sys2Proof/Laws/Decode.lean ====
section
/-! SUPPORT. The fields of an assembled command word (R80), so that no proof takes a word apart bit by bit. -/

namespace Sys2Proof

theorem getLsbD_commandWord (op a : Byte) (v : Word) (i : Nat) :
    (commandWord op a v).getLsbD i =
      if i < 16 then v.getLsbD i else if i < 24 then a.getLsbD (i - 16) else op.getLsbD (i - 24) := by
  have h : commandWord op a v = ((op ++ a : BitVec 16) ++ v : BitVec 32) := rfl
  rw [h, BitVec.getLsbD_append, BitVec.getLsbD_append]
  split
  · rfl
  · rw [show i - 16 - 8 = i - 24 by omega]
    congr 1
    exact propext ⟨fun _ => by omega, fun _ => by omega⟩

@[simp] theorem opField_commandWord (op a : Byte) (v : Word) : opField (commandWord op a v) = op := by
  refine BitVec.eq_of_getLsbD_eq fun i hi => ?_
  simp only [opField, BitVec.getLsbD_extractLsb', getLsbD_commandWord, hi, decide_true, Bool.true_and]
  rw [if_neg (by omega), if_neg (by omega)]
  congr 1; omega

@[simp] theorem aField_commandWord (op a : Byte) (v : Word) : aField (commandWord op a v) = a := by
  refine BitVec.eq_of_getLsbD_eq fun i hi => ?_
  simp only [aField, BitVec.getLsbD_extractLsb', getLsbD_commandWord, hi, decide_true, Bool.true_and]
  rw [if_neg (by omega), if_pos (by omega)]
  congr 1; omega

@[simp] theorem vField_commandWord (op a : Byte) (v : Word) : vField (commandWord op a v) = v := by
  refine BitVec.eq_of_getLsbD_eq fun i hi => ?_
  simp only [vField, BitVec.getLsbD_extractLsb', getLsbD_commandWord, hi, decide_true, Bool.true_and]
  rw [if_pos (by omega)]
  congr 1; omega

theorem decode_commandWord (op a : Byte) (v : Word) : decode (commandWord op a v) = decodeFields op a v := by
  simp [decode]

theorem commandWord_fields (w : Word32) : commandWord (opField w) (aField w) (vField w) = w := by
  refine BitVec.eq_of_getLsbD_eq fun i hi => ?_
  simp only [getLsbD_commandWord, opField, aField, vField, BitVec.getLsbD_extractLsb']
  split
  · simp [*]
  · split
    · rw [show 16 + (i - 16) = i by omega]
      simp only [show i - 16 < 8 by omega, decide_true, Bool.true_and]
    · rw [show 24 + (i - 24) = i by omega]
      simp only [show i - 24 < 8 by omega, decide_true, Bool.true_and]

/-- Masking a command word masks its three fields (R82). -/
theorem commandWord_and (op a op' a' : Byte) (v v' : Word) :
    commandWord op a v &&& commandWord op' a' v' = commandWord (op &&& op') (a &&& a') (v &&& v') := by
  refine BitVec.eq_of_getLsbD_eq fun i _ => ?_
  simp only [BitVec.getLsbD_and, getLsbD_commandWord]
  split
  · rfl
  · split <;> rfl

end Sys2Proof
end

