-- ==== Sys2Proof/Laws/Memory.lean ====
section
/-! SUPPORT. The laws of the byte spaces: a write keeps the canonical form and the bounds, a read after a write, ranges
of bytes. -/

namespace Sys2Proof.Machine

theorem Memory.read_nil (i : Nat) : Memory.read [] i = Memory.unlisted := rfl

theorem Memory.wf_nil : Memory.wf [] := ⟨List.Pairwise.nil, by simp⟩

theorem Memory.within_nil (cap : Nat) : Memory.within [] cap := by simp [Memory.within]

/-- An index below every listed index is not listed. -/
theorem Memory.read_below (m : Memory) (i : Nat) (h : ∀ c ∈ m, i < c.1) : Memory.read m i = Memory.unlisted := by
  induction m with
  | nil => rfl
  | cons c rest ih =>
    have hc : c.1 ≠ i := fun e => Nat.lt_irrefl _ (e ▸ h c (by simp))
    simp only [Memory.read, hc, if_false]
    exact ih fun d hd => h d (by simp [hd])

/-- A listed index after a write is the written one or was listed. -/
theorem Memory.mem_write (m : Memory) (i : Nat) (v : Byte) (c : Host.Cell) (h : c ∈ Memory.write m i v) :
    (c = (i, v) ∧ v ≠ Memory.unlisted) ∨ c ∈ m := by
  induction m with
  | nil =>
    simp only [Memory.write] at h
    split at h
    · simp at h
    · exact .inl ⟨by simpa using h, ‹_›⟩
  | cons d rest ih =>
    simp only [Memory.write] at h
    split at h
    · split at h
      · exact .inr h
      · rcases List.mem_cons.1 h with rfl | h
        · exact .inl ⟨rfl, ‹_›⟩
        · exact .inr h
    · split at h
      · split at h
        · exact .inr (by simp [h])
        · rcases List.mem_cons.1 h with rfl | h
          · exact .inl ⟨rfl, ‹_›⟩
          · exact .inr (by simp [h])
      · rcases List.mem_cons.1 h with rfl | h
        · exact .inr (by simp)
        · rcases ih h with h | h
          · exact .inl h
          · exact .inr (by simp [h])

/-- A write keeps the canonical form. -/
theorem Memory.write_wf (m : Memory) (i : Nat) (v : Byte) (h : Memory.wf m) : Memory.wf (Memory.write m i v) := by
  refine ⟨?_, fun c hc => ?_⟩
  · obtain ⟨hs, -⟩ := h
    induction m with
    | nil =>
      simp only [Memory.write]
      split <;> simp
    | cons d rest ih =>
      obtain ⟨hd, hr⟩ := List.pairwise_cons.1 hs
      simp only [Memory.write]
      split
      · split
        · exact hs
        · exact List.pairwise_cons.2
            ⟨fun c hc => (List.mem_cons.1 hc).elim (fun e => e ▸ ‹_›) fun hc => Nat.lt_trans ‹_› (hd c hc), hs⟩
      · split
        · subst_vars
          split
          · exact hr
          · exact List.pairwise_cons.2 ⟨hd, hr⟩
        · refine List.pairwise_cons.2 ⟨fun c hc => ?_, ih hr⟩
          rcases Memory.mem_write rest i v c hc with ⟨rfl, -⟩ | hc
          · exact Nat.lt_of_le_of_ne (Nat.le_of_not_lt ‹_›) (Ne.symm ‹_›)
          · exact hd c hc
  · rcases Memory.mem_write m i v c hc with ⟨rfl, hv⟩ | hc
    · exact hv
    · exact h.2 c hc

/-- A write inside a buffer keeps its bounds. -/
theorem Memory.write_within (m : Memory) (i cap : Nat) (v : Byte) (h : Memory.within m cap) (hi : i < cap) :
    Memory.within (Memory.write m i v) cap := by
  intro c hc
  rcases Memory.mem_write m i v c hc with ⟨rfl, -⟩ | hc
  · exact hi
  · exact h c hc

/-- Reading another index than the one written gives what it gave. -/
theorem Memory.read_write_ne (m : Memory) (i j : Nat) (v : Byte) (h : j ≠ i) :
    Memory.read (Memory.write m i v) j = Memory.read m j := by
  induction m with
  | nil =>
    simp only [Memory.write]
    split
    · rfl
    · simp [Memory.read, Ne.symm h]
  | cons d rest ih =>
    simp only [Memory.write]
    split
    · split
      · rfl
      · simp [Memory.read, Ne.symm h]
    · split
      · subst_vars
        split <;> simp [Memory.read, Ne.symm h]
      · simp [Memory.read, ih]

/-- Reading the index just written gives the written byte. -/
theorem Memory.read_write_eq (m : Memory) (i : Nat) (v : Byte) (h : Memory.wf m) :
    Memory.read (Memory.write m i v) i = v := by
  obtain ⟨hs, -⟩ := h
  induction m with
  | nil =>
    simp only [Memory.write]
    split
    · subst_vars; rfl
    · simp [Memory.read]
  | cons d rest ih =>
    obtain ⟨hd, hr⟩ := List.pairwise_cons.1 hs
    simp only [Memory.write]
    split
    · split
      · subst_vars
        exact Memory.read_below _ _ fun c hc =>
          (List.mem_cons.1 hc).elim (fun e => e ▸ ‹_›) fun hc => Nat.lt_trans ‹_› (hd c hc)
      · simp [Memory.read]
    · split
      · subst_vars
        split
        · subst_vars
          exact Memory.read_below _ _ hd
        · simp [Memory.read]
      · rename_i hne
        simp [Memory.read, Ne.symm hne, ih hr]

/-- A read after a write, both cases. -/
theorem Memory.read_write (m : Memory) (i j : Nat) (v : Byte) (h : Memory.wf m) :
    Memory.read (Memory.write m i v) j = if j = i then v else Memory.read m j := by
  split
  · exact ‹j = i› ▸ Memory.read_write_eq m j v h
  · exact Memory.read_write_ne m i j v ‹_›

/-- Canonical buffers that read the same at every index are the same. -/
theorem Memory.eq_of_read (m n : Memory) (hm : Memory.wf m) (hn : Memory.wf n)
    (h : ∀ i, Memory.read m i = Memory.read n i) : m = n := by
  induction m generalizing n with
  | nil =>
    cases n with
    | nil => rfl
    | cons c t => exact absurd (by simpa [Memory.read] using (h c.1).symm) (hn.2 c (by simp))
  | cons c t ih =>
    cases n with
    | nil => exact absurd (by simpa [Memory.read] using h c.1) (hm.2 c (by simp))
    | cons d u =>
      obtain ⟨hc, ht⟩ := List.pairwise_cons.1 hm.1
      obtain ⟨hd, hu⟩ := List.pairwise_cons.1 hn.1
      have hkey : c.1 = d.1 := by
        rcases Nat.lt_trichotomy c.1 d.1 with hlt | heq | hlt
        · refine absurd ?_ (hm.2 c (by simp))
          have := h c.1
          rw [Memory.read_below (d :: u) c.1 fun e he =>
            (List.mem_cons.1 he).elim (fun x => x ▸ hlt) fun he => Nat.lt_trans hlt (hd e he)] at this
          simpa [Memory.read] using this
        · exact heq
        · refine absurd ?_ (hn.2 d (by simp))
          have := h d.1
          rw [Memory.read_below (c :: t) d.1 fun e he =>
            (List.mem_cons.1 he).elim (fun x => x ▸ hlt) fun he => Nat.lt_trans hlt (hc e he)] at this
          simpa [Memory.read] using this.symm
      have hval : c.2 = d.2 := by simpa [Memory.read, hkey] using h c.1
      have hrest : t = u := by
        refine ih u ⟨ht, fun e he => hm.2 e (by simp [he])⟩ ⟨hu, fun e he => hn.2 e (by simp [he])⟩ fun i => ?_
        by_cases hi : c.1 = i
        · subst hi; rw [Memory.read_below t c.1 hc, Memory.read_below u c.1 (hkey ▸ hd)]
        · have hi' : ¬d.1 = i := hkey ▸ hi
          simpa [Memory.read, hi, hi'] using h i
      exact congrArg₂ List.cons (Prod.ext hkey hval) hrest

@[simp] theorem Memory.bytes_zero (m : Memory) (i : Nat) : Memory.bytes m i 0 = [] := rfl

@[simp] theorem Memory.length_bytes (m : Memory) (i n : Nat) : (Memory.bytes m i n).length = n := by
  induction n generalizing i with
  | zero => rfl
  | succ n ih => simp [Memory.bytes, ih]

/-- A range of bytes, read one by one. -/
theorem Memory.bytes_eq_map (m : Memory) (i n : Nat) :
    Memory.bytes m i n = (List.range n).map (fun k => Memory.read m (i + k)) := by
  induction n generalizing i with
  | zero => rfl
  | succ n ih =>
    rw [Memory.bytes, ih, List.range_succ_eq_map]
    simp [Nat.add_assoc, Nat.add_comm 1]

/-- Two buffers that read the same inside a range have the same range of bytes. -/
theorem Memory.bytes_congr (m m' : Memory) (n : Nat) (h : ∀ j, j < n → Memory.read m j = Memory.read m' j) :
    Memory.bytes m 0 n = Memory.bytes m' 0 n := by
  simp only [Memory.bytes_eq_map, Nat.zero_add]
  exact List.map_congr_left fun j hj => h j (List.mem_range.1 hj)

end Sys2Proof.Machine
end

