-- ==== Sys2Proof/Laws/State.lean ====
section
/-! SUPPORT. The fields of the state after each named update of Machine/Ops.lean, one lemma per field, all by rfl. -/

namespace Sys2Proof.Machine

variable (s : State)

/-! `respond` -/

@[simp] theorem respond_par (e : Bool) (v : Word) : (respond e v s).par = s.par := rfl
@[simp] theorem respond_crc (e : Bool) (v : Word) : (respond e v s).crc = s.crc := rfl
@[simp] theorem respond_crcOk (e : Bool) (v : Word) : (respond e v s).crcOk = s.crcOk := rfl
@[simp] theorem respond_stg (e : Bool) (v : Word) : (respond e v s).stg = s.stg := rfl
@[simp] theorem respond_q (e : Bool) (v : Word) : (respond e v s).q = s.q := rfl
@[simp] theorem respond_head (e : Bool) (v : Word) : (respond e v s).head = s.head := rfl
@[simp] theorem respond_tail (e : Bool) (v : Word) : (respond e v s).tail = s.tail := rfl
@[simp] theorem respond_sync (e : Bool) (v : Word) : (respond e v s).sync = s.sync := rfl
@[simp] theorem respond_syncReq (e : Bool) (v : Word) : (respond e v s).syncReq = s.syncReq := rfl
@[simp] theorem respond_syncBusy (e : Bool) (v : Word) : (respond e v s).syncBusy = s.syncBusy := rfl
@[simp] theorem respond_cur (e : Bool) (v : Word) : (respond e v s).cur = s.cur := rfl
@[simp] theorem respond_es (e : Bool) (v : Word) : (respond e v s).es = s.es := rfl
@[simp] theorem respond_tocnt (e : Bool) (v : Word) : (respond e v s).tocnt = s.tocnt := rfl
@[simp] theorem respond_silt0 (e : Bool) (v : Word) : (respond e v s).silt0 = s.silt0 := rfl
@[simp] theorem respond_exc (e : Bool) (v : Word) : (respond e v s).exc = s.exc := rfl
@[simp] theorem respond_exkind (e : Bool) (v : Word) : (respond e v s).exkind = s.exkind := rfl
@[simp] theorem respond_lastMs (e : Bool) (v : Word) : (respond e v s).lastMs = s.lastMs := rfl
@[simp] theorem respond_guard (e : Bool) (v : Word) : (respond e v s).guard = s.guard := rfl
@[simp] theorem respond_ms (e : Bool) (v : Word) : (respond e v s).ms = s.ms := rfl
@[simp] theorem respond_rstPend (e : Bool) (v : Word) : (respond e v s).rstPend = s.rstPend := rfl
@[simp] theorem respond_ctrl (e : Bool) (v : Word) : (respond e v s).ctrl = s.ctrl := rfl
@[simp] theorem respond_baud (e : Bool) (v : Word) : (respond e v s).baud = s.baud := rfl
@[simp] theorem respond_timeout (e : Bool) (v : Word) : (respond e v s).timeout = s.timeout := rfl
@[simp] theorem respond_sil (e : Bool) (v : Word) : (respond e v s).sil = s.sil := rfl
@[simp] theorem respond_dir (e : Bool) (v : Word) : (respond e v s).dir = s.dir := rfl
@[simp] theorem respond_txq (e : Bool) (v : Word) : (respond e v s).txq = s.txq := rfl
@[simp] theorem respond_rxf (e : Bool) (v : Word) : (respond e v s).rxf = s.rxf := rfl
@[simp] theorem respond_tbaud (e : Bool) (v : Word) : (respond e v s).tbaud = s.tbaud := rfl
@[simp] theorem respond_rsp (e : Bool) (v : Word) : (respond e v s).rsp = s.rsp ++ [responseWord e v] := rfl
@[simp] theorem respond_cpl (e : Bool) (v : Word) : (respond e v s).cpl = s.cpl := rfl
@[simp] theorem respond_lineOut (e : Bool) (v : Word) : (respond e v s).lineOut = s.lineOut := rfl
@[simp] theorem respond_schedule (e : Bool) (v : Word) : (respond e v s).schedule = s.schedule := rfl

/-! `setBaudRate` -/

@[simp] theorem setBaudRate_par (k : Word) : (setBaudRate k s).par = s.par := rfl
@[simp] theorem setBaudRate_crc (k : Word) : (setBaudRate k s).crc = s.crc := rfl
@[simp] theorem setBaudRate_crcOk (k : Word) : (setBaudRate k s).crcOk = s.crcOk := rfl
@[simp] theorem setBaudRate_stg (k : Word) : (setBaudRate k s).stg = s.stg := rfl
@[simp] theorem setBaudRate_q (k : Word) : (setBaudRate k s).q = s.q := rfl
@[simp] theorem setBaudRate_head (k : Word) : (setBaudRate k s).head = s.head := rfl
@[simp] theorem setBaudRate_tail (k : Word) : (setBaudRate k s).tail = s.tail := rfl
@[simp] theorem setBaudRate_sync (k : Word) : (setBaudRate k s).sync = s.sync := rfl
@[simp] theorem setBaudRate_syncReq (k : Word) : (setBaudRate k s).syncReq = s.syncReq := rfl
@[simp] theorem setBaudRate_syncBusy (k : Word) : (setBaudRate k s).syncBusy = s.syncBusy := rfl
@[simp] theorem setBaudRate_cur (k : Word) : (setBaudRate k s).cur = s.cur := rfl
@[simp] theorem setBaudRate_es (k : Word) : (setBaudRate k s).es = s.es := rfl
@[simp] theorem setBaudRate_tocnt (k : Word) : (setBaudRate k s).tocnt = s.tocnt := rfl
@[simp] theorem setBaudRate_silt0 (k : Word) : (setBaudRate k s).silt0 = s.silt0 := rfl
@[simp] theorem setBaudRate_exc (k : Word) : (setBaudRate k s).exc = s.exc := rfl
@[simp] theorem setBaudRate_exkind (k : Word) : (setBaudRate k s).exkind = s.exkind := rfl
@[simp] theorem setBaudRate_lastMs (k : Word) : (setBaudRate k s).lastMs = s.lastMs := rfl
@[simp] theorem setBaudRate_guard (k : Word) : (setBaudRate k s).guard = s.guard := rfl
@[simp] theorem setBaudRate_ms (k : Word) : (setBaudRate k s).ms = s.ms := rfl
@[simp] theorem setBaudRate_rstPend (k : Word) : (setBaudRate k s).rstPend = s.rstPend := rfl
@[simp] theorem setBaudRate_ctrl (k : Word) : (setBaudRate k s).ctrl = s.ctrl := rfl
@[simp] theorem setBaudRate_baud (k : Word) : (setBaudRate k s).baud = s.baud := rfl
@[simp] theorem setBaudRate_timeout (k : Word) : (setBaudRate k s).timeout = s.timeout := rfl
@[simp] theorem setBaudRate_sil (k : Word) : (setBaudRate k s).sil = s.sil := rfl
@[simp] theorem setBaudRate_dir (k : Word) : (setBaudRate k s).dir = s.dir := rfl
@[simp] theorem setBaudRate_txq (k : Word) : (setBaudRate k s).txq = s.txq := rfl
@[simp] theorem setBaudRate_rxf (k : Word) : (setBaudRate k s).rxf = s.rxf := rfl
@[simp] theorem setBaudRate_tbaud (k : Word) : (setBaudRate k s).tbaud = some k := rfl
@[simp] theorem setBaudRate_rsp (k : Word) : (setBaudRate k s).rsp = s.rsp := rfl
@[simp] theorem setBaudRate_cpl (k : Word) : (setBaudRate k s).cpl = s.cpl := rfl
@[simp] theorem setBaudRate_lineOut (k : Word) : (setBaudRate k s).lineOut = s.lineOut := rfl
@[simp] theorem setBaudRate_schedule (k : Word) : (setBaudRate k s).schedule = s.schedule := rfl

/-! `transportWrite` -/

@[simp] theorem transportWrite_par (b : List Byte) : (transportWrite b s).par = s.par := rfl
@[simp] theorem transportWrite_crc (b : List Byte) : (transportWrite b s).crc = s.crc := rfl
@[simp] theorem transportWrite_crcOk (b : List Byte) : (transportWrite b s).crcOk = s.crcOk := rfl
@[simp] theorem transportWrite_stg (b : List Byte) : (transportWrite b s).stg = s.stg := rfl
@[simp] theorem transportWrite_q (b : List Byte) : (transportWrite b s).q = s.q := rfl
@[simp] theorem transportWrite_head (b : List Byte) : (transportWrite b s).head = s.head := rfl
@[simp] theorem transportWrite_tail (b : List Byte) : (transportWrite b s).tail = s.tail := rfl
@[simp] theorem transportWrite_sync (b : List Byte) : (transportWrite b s).sync = s.sync := rfl
@[simp] theorem transportWrite_syncReq (b : List Byte) : (transportWrite b s).syncReq = s.syncReq := rfl
@[simp] theorem transportWrite_syncBusy (b : List Byte) : (transportWrite b s).syncBusy = s.syncBusy := rfl
@[simp] theorem transportWrite_cur (b : List Byte) : (transportWrite b s).cur = s.cur := rfl
@[simp] theorem transportWrite_es (b : List Byte) : (transportWrite b s).es = s.es := rfl
@[simp] theorem transportWrite_tocnt (b : List Byte) : (transportWrite b s).tocnt = s.tocnt := rfl
@[simp] theorem transportWrite_silt0 (b : List Byte) : (transportWrite b s).silt0 = s.silt0 := rfl
@[simp] theorem transportWrite_exc (b : List Byte) : (transportWrite b s).exc = s.exc := rfl
@[simp] theorem transportWrite_exkind (b : List Byte) : (transportWrite b s).exkind = s.exkind := rfl
@[simp] theorem transportWrite_lastMs (b : List Byte) : (transportWrite b s).lastMs = s.lastMs := rfl
@[simp] theorem transportWrite_guard (b : List Byte) : (transportWrite b s).guard = s.guard := rfl
@[simp] theorem transportWrite_ms (b : List Byte) : (transportWrite b s).ms = s.ms := rfl
@[simp] theorem transportWrite_rstPend (b : List Byte) : (transportWrite b s).rstPend = s.rstPend := rfl
@[simp] theorem transportWrite_ctrl (b : List Byte) : (transportWrite b s).ctrl = s.ctrl := rfl
@[simp] theorem transportWrite_baud (b : List Byte) : (transportWrite b s).baud = s.baud := rfl
@[simp] theorem transportWrite_timeout (b : List Byte) : (transportWrite b s).timeout = s.timeout := rfl
@[simp] theorem transportWrite_sil (b : List Byte) : (transportWrite b s).sil = s.sil := rfl
@[simp] theorem transportWrite_dir (b : List Byte) : (transportWrite b s).dir = s.dir := rfl
@[simp] theorem transportWrite_txq (b : List Byte) : (transportWrite b s).txq = s.txq ++ b := rfl
@[simp] theorem transportWrite_rxf (b : List Byte) : (transportWrite b s).rxf = s.rxf := rfl
@[simp] theorem transportWrite_tbaud (b : List Byte) : (transportWrite b s).tbaud = s.tbaud := rfl
@[simp] theorem transportWrite_rsp (b : List Byte) : (transportWrite b s).rsp = s.rsp := rfl
@[simp] theorem transportWrite_cpl (b : List Byte) : (transportWrite b s).cpl = s.cpl := rfl
@[simp] theorem transportWrite_lineOut (b : List Byte) : (transportWrite b s).lineOut = s.lineOut := rfl
@[simp] theorem transportWrite_schedule (b : List Byte) : (transportWrite b s).schedule = s.schedule := rfl

/-! `flushRx` -/

@[simp] theorem flushRx_par : (flushRx s).par = s.par := rfl
@[simp] theorem flushRx_crc : (flushRx s).crc = s.crc := rfl
@[simp] theorem flushRx_crcOk : (flushRx s).crcOk = s.crcOk := rfl
@[simp] theorem flushRx_stg : (flushRx s).stg = s.stg := rfl
@[simp] theorem flushRx_q : (flushRx s).q = s.q := rfl
@[simp] theorem flushRx_head : (flushRx s).head = s.head := rfl
@[simp] theorem flushRx_tail : (flushRx s).tail = s.tail := rfl
@[simp] theorem flushRx_sync : (flushRx s).sync = s.sync := rfl
@[simp] theorem flushRx_syncReq : (flushRx s).syncReq = s.syncReq := rfl
@[simp] theorem flushRx_syncBusy : (flushRx s).syncBusy = s.syncBusy := rfl
@[simp] theorem flushRx_cur : (flushRx s).cur = s.cur := rfl
@[simp] theorem flushRx_es : (flushRx s).es = s.es := rfl
@[simp] theorem flushRx_tocnt : (flushRx s).tocnt = s.tocnt := rfl
@[simp] theorem flushRx_silt0 : (flushRx s).silt0 = s.silt0 := rfl
@[simp] theorem flushRx_exc : (flushRx s).exc = s.exc := rfl
@[simp] theorem flushRx_exkind : (flushRx s).exkind = s.exkind := rfl
@[simp] theorem flushRx_lastMs : (flushRx s).lastMs = s.lastMs := rfl
@[simp] theorem flushRx_guard : (flushRx s).guard = s.guard := rfl
@[simp] theorem flushRx_ms : (flushRx s).ms = s.ms := rfl
@[simp] theorem flushRx_rstPend : (flushRx s).rstPend = s.rstPend := rfl
@[simp] theorem flushRx_ctrl : (flushRx s).ctrl = s.ctrl := rfl
@[simp] theorem flushRx_baud : (flushRx s).baud = s.baud := rfl
@[simp] theorem flushRx_timeout : (flushRx s).timeout = s.timeout := rfl
@[simp] theorem flushRx_sil : (flushRx s).sil = s.sil := rfl
@[simp] theorem flushRx_dir : (flushRx s).dir = s.dir := rfl
@[simp] theorem flushRx_txq : (flushRx s).txq = s.txq := rfl
@[simp] theorem flushRx_rxf : (flushRx s).rxf = [] := rfl
@[simp] theorem flushRx_tbaud : (flushRx s).tbaud = s.tbaud := rfl
@[simp] theorem flushRx_rsp : (flushRx s).rsp = s.rsp := rfl
@[simp] theorem flushRx_cpl : (flushRx s).cpl = s.cpl := rfl
@[simp] theorem flushRx_lineOut : (flushRx s).lineOut = s.lineOut := rfl
@[simp] theorem flushRx_schedule : (flushRx s).schedule = s.schedule := rfl

/-! `flushTx` -/

@[simp] theorem flushTx_par : (flushTx s).par = s.par := rfl
@[simp] theorem flushTx_crc : (flushTx s).crc = s.crc := rfl
@[simp] theorem flushTx_crcOk : (flushTx s).crcOk = s.crcOk := rfl
@[simp] theorem flushTx_stg : (flushTx s).stg = s.stg := rfl
@[simp] theorem flushTx_q : (flushTx s).q = s.q := rfl
@[simp] theorem flushTx_head : (flushTx s).head = s.head := rfl
@[simp] theorem flushTx_tail : (flushTx s).tail = s.tail := rfl
@[simp] theorem flushTx_sync : (flushTx s).sync = s.sync := rfl
@[simp] theorem flushTx_syncReq : (flushTx s).syncReq = s.syncReq := rfl
@[simp] theorem flushTx_syncBusy : (flushTx s).syncBusy = s.syncBusy := rfl
@[simp] theorem flushTx_cur : (flushTx s).cur = s.cur := rfl
@[simp] theorem flushTx_es : (flushTx s).es = s.es := rfl
@[simp] theorem flushTx_tocnt : (flushTx s).tocnt = s.tocnt := rfl
@[simp] theorem flushTx_silt0 : (flushTx s).silt0 = s.silt0 := rfl
@[simp] theorem flushTx_exc : (flushTx s).exc = s.exc := rfl
@[simp] theorem flushTx_exkind : (flushTx s).exkind = s.exkind := rfl
@[simp] theorem flushTx_lastMs : (flushTx s).lastMs = s.lastMs := rfl
@[simp] theorem flushTx_guard : (flushTx s).guard = s.guard := rfl
@[simp] theorem flushTx_ms : (flushTx s).ms = s.ms := rfl
@[simp] theorem flushTx_rstPend : (flushTx s).rstPend = s.rstPend := rfl
@[simp] theorem flushTx_ctrl : (flushTx s).ctrl = s.ctrl := rfl
@[simp] theorem flushTx_baud : (flushTx s).baud = s.baud := rfl
@[simp] theorem flushTx_timeout : (flushTx s).timeout = s.timeout := rfl
@[simp] theorem flushTx_sil : (flushTx s).sil = s.sil := rfl
@[simp] theorem flushTx_dir : (flushTx s).dir = s.dir := rfl
@[simp] theorem flushTx_txq : (flushTx s).txq = [] := rfl
@[simp] theorem flushTx_rxf : (flushTx s).rxf = s.rxf := rfl
@[simp] theorem flushTx_tbaud : (flushTx s).tbaud = s.tbaud := rfl
@[simp] theorem flushTx_rsp : (flushTx s).rsp = s.rsp := rfl
@[simp] theorem flushTx_cpl : (flushTx s).cpl = s.cpl := rfl
@[simp] theorem flushTx_lineOut : (flushTx s).lineOut = s.lineOut := rfl
@[simp] theorem flushTx_schedule : (flushTx s).schedule = s.schedule := rfl

/-! `setDirection` -/

@[simp] theorem setDirection_par (d : Bool) : (setDirection d s).par = s.par := rfl
@[simp] theorem setDirection_crc (d : Bool) : (setDirection d s).crc = s.crc := rfl
@[simp] theorem setDirection_crcOk (d : Bool) : (setDirection d s).crcOk = s.crcOk := rfl
@[simp] theorem setDirection_stg (d : Bool) : (setDirection d s).stg = s.stg := rfl
@[simp] theorem setDirection_q (d : Bool) : (setDirection d s).q = s.q := rfl
@[simp] theorem setDirection_head (d : Bool) : (setDirection d s).head = s.head := rfl
@[simp] theorem setDirection_tail (d : Bool) : (setDirection d s).tail = s.tail := rfl
@[simp] theorem setDirection_sync (d : Bool) : (setDirection d s).sync = s.sync := rfl
@[simp] theorem setDirection_syncReq (d : Bool) : (setDirection d s).syncReq = s.syncReq := rfl
@[simp] theorem setDirection_syncBusy (d : Bool) : (setDirection d s).syncBusy = s.syncBusy := rfl
@[simp] theorem setDirection_cur (d : Bool) : (setDirection d s).cur = s.cur := rfl
@[simp] theorem setDirection_es (d : Bool) : (setDirection d s).es = s.es := rfl
@[simp] theorem setDirection_tocnt (d : Bool) : (setDirection d s).tocnt = s.tocnt := rfl
@[simp] theorem setDirection_silt0 (d : Bool) : (setDirection d s).silt0 = s.silt0 := rfl
@[simp] theorem setDirection_exc (d : Bool) : (setDirection d s).exc = s.exc := rfl
@[simp] theorem setDirection_exkind (d : Bool) : (setDirection d s).exkind = s.exkind := rfl
@[simp] theorem setDirection_lastMs (d : Bool) : (setDirection d s).lastMs = s.lastMs := rfl
@[simp] theorem setDirection_guard (d : Bool) : (setDirection d s).guard = s.guard := rfl
@[simp] theorem setDirection_ms (d : Bool) : (setDirection d s).ms = s.ms := rfl
@[simp] theorem setDirection_rstPend (d : Bool) : (setDirection d s).rstPend = s.rstPend := rfl
@[simp] theorem setDirection_ctrl (d : Bool) : (setDirection d s).ctrl = s.ctrl := rfl
@[simp] theorem setDirection_baud (d : Bool) : (setDirection d s).baud = s.baud := rfl
@[simp] theorem setDirection_timeout (d : Bool) : (setDirection d s).timeout = s.timeout := rfl
@[simp] theorem setDirection_sil (d : Bool) : (setDirection d s).sil = s.sil := rfl
@[simp] theorem setDirection_dir (d : Bool) : (setDirection d s).dir = if s.ctrl.diren then d else s.dir := rfl
@[simp] theorem setDirection_txq (d : Bool) : (setDirection d s).txq = s.txq := rfl
@[simp] theorem setDirection_rxf (d : Bool) : (setDirection d s).rxf = s.rxf := rfl
@[simp] theorem setDirection_tbaud (d : Bool) : (setDirection d s).tbaud = s.tbaud := rfl
@[simp] theorem setDirection_rsp (d : Bool) : (setDirection d s).rsp = s.rsp := rfl
@[simp] theorem setDirection_cpl (d : Bool) : (setDirection d s).cpl = s.cpl := rfl
@[simp] theorem setDirection_lineOut (d : Bool) : (setDirection d s).lineOut = s.lineOut := rfl
@[simp] theorem setDirection_schedule (d : Bool) : (setDirection d s).schedule = s.schedule := rfl

/-! `enterSilent` -/

@[simp] theorem enterSilent_par : (enterSilent s).par = s.par := rfl
@[simp] theorem enterSilent_crc : (enterSilent s).crc = s.crc := rfl
@[simp] theorem enterSilent_crcOk : (enterSilent s).crcOk = s.crcOk := rfl
@[simp] theorem enterSilent_stg : (enterSilent s).stg = s.stg := rfl
@[simp] theorem enterSilent_q : (enterSilent s).q = s.q := rfl
@[simp] theorem enterSilent_head : (enterSilent s).head = s.head := rfl
@[simp] theorem enterSilent_tail : (enterSilent s).tail = s.tail := rfl
@[simp] theorem enterSilent_sync : (enterSilent s).sync = s.sync := rfl
@[simp] theorem enterSilent_syncReq : (enterSilent s).syncReq = s.syncReq := rfl
@[simp] theorem enterSilent_syncBusy : (enterSilent s).syncBusy = s.syncBusy := rfl
@[simp] theorem enterSilent_cur : (enterSilent s).cur = s.cur := rfl
@[simp] theorem enterSilent_es : (enterSilent s).es = .silent := rfl
@[simp] theorem enterSilent_tocnt : (enterSilent s).tocnt = s.tocnt := rfl
@[simp] theorem enterSilent_silt0 : (enterSilent s).silt0 = s.ms := rfl
@[simp] theorem enterSilent_exc : (enterSilent s).exc = s.exc := rfl
@[simp] theorem enterSilent_exkind : (enterSilent s).exkind = s.exkind := rfl
@[simp] theorem enterSilent_lastMs : (enterSilent s).lastMs = s.lastMs := rfl
@[simp] theorem enterSilent_guard : (enterSilent s).guard = s.guard := rfl
@[simp] theorem enterSilent_ms : (enterSilent s).ms = s.ms := rfl
@[simp] theorem enterSilent_rstPend : (enterSilent s).rstPend = s.rstPend := rfl
@[simp] theorem enterSilent_ctrl : (enterSilent s).ctrl = s.ctrl := rfl
@[simp] theorem enterSilent_baud : (enterSilent s).baud = s.baud := rfl
@[simp] theorem enterSilent_timeout : (enterSilent s).timeout = s.timeout := rfl
@[simp] theorem enterSilent_sil : (enterSilent s).sil = s.sil := rfl
@[simp] theorem enterSilent_dir : (enterSilent s).dir = s.dir := rfl
@[simp] theorem enterSilent_txq : (enterSilent s).txq = s.txq := rfl
@[simp] theorem enterSilent_rxf : (enterSilent s).rxf = s.rxf := rfl
@[simp] theorem enterSilent_tbaud : (enterSilent s).tbaud = s.tbaud := rfl
@[simp] theorem enterSilent_rsp : (enterSilent s).rsp = s.rsp := rfl
@[simp] theorem enterSilent_cpl : (enterSilent s).cpl = s.cpl := rfl
@[simp] theorem enterSilent_lineOut : (enterSilent s).lineOut = s.lineOut := rfl
@[simp] theorem enterSilent_schedule : (enterSilent s).schedule = s.schedule := rfl

/-! `emit` -/

@[simp] theorem emit_par (k : Kind) (c : Byte) (m : Option Message) : (emit k c m s).par = s.par := rfl
@[simp] theorem emit_crc (k : Kind) (c : Byte) (m : Option Message) : (emit k c m s).crc = s.crc := rfl
@[simp] theorem emit_crcOk (k : Kind) (c : Byte) (m : Option Message) : (emit k c m s).crcOk = s.crcOk := rfl
@[simp] theorem emit_stg (k : Kind) (c : Byte) (m : Option Message) : (emit k c m s).stg = s.stg := rfl
@[simp] theorem emit_q (k : Kind) (c : Byte) (m : Option Message) : (emit k c m s).q = s.q := rfl
@[simp] theorem emit_head (k : Kind) (c : Byte) (m : Option Message) : (emit k c m s).head = s.head := rfl
@[simp] theorem emit_tail (k : Kind) (c : Byte) (m : Option Message) : (emit k c m s).tail = s.tail := rfl
@[simp] theorem emit_sync (k : Kind) (c : Byte) (m : Option Message) : (emit k c m s).sync = s.sync := rfl
@[simp] theorem emit_syncReq (k : Kind) (c : Byte) (m : Option Message) : (emit k c m s).syncReq = s.syncReq := rfl
@[simp] theorem emit_syncBusy (k : Kind) (c : Byte) (m : Option Message) : (emit k c m s).syncBusy = s.syncBusy := rfl
@[simp] theorem emit_cur (k : Kind) (c : Byte) (m : Option Message) : (emit k c m s).cur = s.cur := rfl
@[simp] theorem emit_es (k : Kind) (c : Byte) (m : Option Message) : (emit k c m s).es = s.es := rfl
@[simp] theorem emit_tocnt (k : Kind) (c : Byte) (m : Option Message) : (emit k c m s).tocnt = s.tocnt := rfl
@[simp] theorem emit_silt0 (k : Kind) (c : Byte) (m : Option Message) : (emit k c m s).silt0 = s.silt0 := rfl
@[simp] theorem emit_exc (k : Kind) (c : Byte) (m : Option Message) : (emit k c m s).exc = s.exc := rfl
@[simp] theorem emit_exkind (k : Kind) (c : Byte) (m : Option Message) : (emit k c m s).exkind = s.exkind := rfl
@[simp] theorem emit_lastMs (k : Kind) (c : Byte) (m : Option Message) : (emit k c m s).lastMs = s.lastMs := rfl
@[simp] theorem emit_guard (k : Kind) (c : Byte) (m : Option Message) : (emit k c m s).guard = s.guard := rfl
@[simp] theorem emit_ms (k : Kind) (c : Byte) (m : Option Message) : (emit k c m s).ms = s.ms := rfl
@[simp] theorem emit_rstPend (k : Kind) (c : Byte) (m : Option Message) : (emit k c m s).rstPend = s.rstPend := rfl
@[simp] theorem emit_ctrl (k : Kind) (c : Byte) (m : Option Message) : (emit k c m s).ctrl = s.ctrl := rfl
@[simp] theorem emit_baud (k : Kind) (c : Byte) (m : Option Message) : (emit k c m s).baud = s.baud := rfl
@[simp] theorem emit_timeout (k : Kind) (c : Byte) (m : Option Message) : (emit k c m s).timeout = s.timeout := rfl
@[simp] theorem emit_sil (k : Kind) (c : Byte) (m : Option Message) : (emit k c m s).sil = s.sil := rfl
@[simp] theorem emit_dir (k : Kind) (c : Byte) (m : Option Message) : (emit k c m s).dir = s.dir := rfl
@[simp] theorem emit_txq (k : Kind) (c : Byte) (m : Option Message) : (emit k c m s).txq = s.txq := rfl
@[simp] theorem emit_rxf (k : Kind) (c : Byte) (m : Option Message) : (emit k c m s).rxf = s.rxf := rfl
@[simp] theorem emit_tbaud (k : Kind) (c : Byte) (m : Option Message) : (emit k c m s).tbaud = s.tbaud := rfl
@[simp] theorem emit_rsp (k : Kind) (c : Byte) (m : Option Message) : (emit k c m s).rsp = s.rsp := rfl
@[simp] theorem emit_cpl (k : Kind) (c : Byte) (m : Option Message) : (emit k c m s).cpl = s.cpl ++ [⟨k, s.cur.entry.async, c, s.cur.entry.msg.context, s.cur.entry.cb, m⟩] := rfl
@[simp] theorem emit_lineOut (k : Kind) (c : Byte) (m : Option Message) : (emit k c m s).lineOut = s.lineOut := rfl
@[simp] theorem emit_schedule (k : Kind) (c : Byte) (m : Option Message) : (emit k c m s).schedule = s.schedule := rfl

/-! `deliver` -/

@[simp] theorem deliver_par (k : Kind) (c : Byte) (m : Option Message) : (deliver k c m s).par = s.par := rfl
@[simp] theorem deliver_crc (k : Kind) (c : Byte) (m : Option Message) : (deliver k c m s).crc = s.crc := rfl
@[simp] theorem deliver_crcOk (k : Kind) (c : Byte) (m : Option Message) : (deliver k c m s).crcOk = s.crcOk := rfl
@[simp] theorem deliver_stg (k : Kind) (c : Byte) (m : Option Message) : (deliver k c m s).stg = s.stg := rfl
@[simp] theorem deliver_q (k : Kind) (c : Byte) (m : Option Message) : (deliver k c m s).q = s.q := rfl
@[simp] theorem deliver_head (k : Kind) (c : Byte) (m : Option Message) : (deliver k c m s).head = s.head := rfl
@[simp] theorem deliver_tail (k : Kind) (c : Byte) (m : Option Message) : (deliver k c m s).tail = s.tail := rfl
@[simp] theorem deliver_sync (k : Kind) (c : Byte) (m : Option Message) : (deliver k c m s).sync = s.sync := rfl
@[simp] theorem deliver_syncReq (k : Kind) (c : Byte) (m : Option Message) : (deliver k c m s).syncReq = s.syncReq := rfl
@[simp] theorem deliver_syncBusy (k : Kind) (c : Byte) (m : Option Message) : (deliver k c m s).syncBusy = false := rfl
@[simp] theorem deliver_cur (k : Kind) (c : Byte) (m : Option Message) : (deliver k c m s).cur = s.cur := rfl
@[simp] theorem deliver_es (k : Kind) (c : Byte) (m : Option Message) : (deliver k c m s).es = .silent := rfl
@[simp] theorem deliver_tocnt (k : Kind) (c : Byte) (m : Option Message) : (deliver k c m s).tocnt = s.tocnt := rfl
@[simp] theorem deliver_silt0 (k : Kind) (c : Byte) (m : Option Message) : (deliver k c m s).silt0 = s.ms := rfl
@[simp] theorem deliver_exc (k : Kind) (c : Byte) (m : Option Message) : (deliver k c m s).exc = s.exc := rfl
@[simp] theorem deliver_exkind (k : Kind) (c : Byte) (m : Option Message) : (deliver k c m s).exkind = s.exkind := rfl
@[simp] theorem deliver_lastMs (k : Kind) (c : Byte) (m : Option Message) : (deliver k c m s).lastMs = s.lastMs := rfl
@[simp] theorem deliver_guard (k : Kind) (c : Byte) (m : Option Message) : (deliver k c m s).guard = s.guard := rfl
@[simp] theorem deliver_ms (k : Kind) (c : Byte) (m : Option Message) : (deliver k c m s).ms = s.ms := rfl
@[simp] theorem deliver_rstPend (k : Kind) (c : Byte) (m : Option Message) : (deliver k c m s).rstPend = s.rstPend := rfl
@[simp] theorem deliver_ctrl (k : Kind) (c : Byte) (m : Option Message) : (deliver k c m s).ctrl = s.ctrl := rfl
@[simp] theorem deliver_baud (k : Kind) (c : Byte) (m : Option Message) : (deliver k c m s).baud = s.baud := rfl
@[simp] theorem deliver_timeout (k : Kind) (c : Byte) (m : Option Message) : (deliver k c m s).timeout = s.timeout := rfl
@[simp] theorem deliver_sil (k : Kind) (c : Byte) (m : Option Message) : (deliver k c m s).sil = s.sil := rfl
@[simp] theorem deliver_dir (k : Kind) (c : Byte) (m : Option Message) : (deliver k c m s).dir = s.dir := rfl
@[simp] theorem deliver_txq (k : Kind) (c : Byte) (m : Option Message) : (deliver k c m s).txq = s.txq := rfl
@[simp] theorem deliver_rxf (k : Kind) (c : Byte) (m : Option Message) : (deliver k c m s).rxf = s.rxf := rfl
@[simp] theorem deliver_tbaud (k : Kind) (c : Byte) (m : Option Message) : (deliver k c m s).tbaud = s.tbaud := rfl
@[simp] theorem deliver_rsp (k : Kind) (c : Byte) (m : Option Message) : (deliver k c m s).rsp = s.rsp := rfl
@[simp] theorem deliver_cpl (k : Kind) (c : Byte) (m : Option Message) : (deliver k c m s).cpl = s.cpl ++ [⟨k, s.cur.entry.async, c, s.cur.entry.msg.context, s.cur.entry.cb, m⟩] := rfl
@[simp] theorem deliver_lineOut (k : Kind) (c : Byte) (m : Option Message) : (deliver k c m s).lineOut = s.lineOut := rfl
@[simp] theorem deliver_schedule (k : Kind) (c : Byte) (m : Option Message) : (deliver k c m s).schedule = s.schedule := rfl

end Sys2Proof.Machine
end

