-- ==== Sys2Proof/Laws/Ops.lean ====
section
/-! SUPPORT. What each shared operation can do, said once: sequencing, the CRC insertion, the reply capture, the start of
a transmission, the admission test, the poll and its arms. -/

namespace Sys2Proof.Machine

/-! ### Sequencing and answers -/

@[simp] theorem andThen_next (t : State) (f : State → Res) : andThen (.next t) f = f t := rfl

theorem andThen_eq_next {r : Res} {f : State → Res} {u : State} (h : andThen r f = .next u) :
    ∃ t, r = .next t ∧ f t = .next u := by
  cases r with
  | next t => exact ⟨t, rfl, h⟩
  | fault e => cases h
  | refused e => cases h

@[simp] theorem accept_eq (v : Word) (s : State) : accept v s = .next (respond false v s) := rfl

@[simp] theorem refuse_eq (r : Reason) (s : State) : refuse r s = .next (respond true (reasonCode r) s) := rfl

/-! ### The CRC insertion (R113, R172) -/

theorem crcAppend_wf (m : Memory) (n : Nat) (h : Memory.wf m) : Memory.wf (crcAppend m n) :=
  Memory.write_wf _ _ _ (Memory.write_wf _ _ _ h)

theorem crcAppend_within (m : Memory) (n cap : Nat) (h : Memory.within m cap) (hn : n + 2 ≤ cap) :
    Memory.within (crcAppend m n) cap :=
  Memory.write_within _ _ _ _ (Memory.write_within _ _ _ _ h (by omega)) (by omega)

theorem crcAppend_read (m : Memory) (n j : Nat) (h : Memory.wf m) :
    Memory.read (crcAppend m n) j =
      if j = n + 1 then hi8 (crc16 (Memory.bytes m 0 n))
      else if j = n then lo8 (crc16 (Memory.bytes m 0 n)) else Memory.read m j := by
  simp only [crcAppend]
  rw [Memory.read_write _ _ _ _ (Memory.write_wf _ _ _ h), Memory.read_write _ _ _ _ h]

/-! ### The reply capture (R142, R143) -/

/-- The bytes `bs` written at `i`, `i + 1`, … -/
def writeAll (m : Memory) (i : Nat) : List Byte → Memory
  | [] => m
  | b :: bs => writeAll (Memory.write m i b) (i + 1) bs

theorem writeAll_wf (m : Memory) (i : Nat) (bs : List Byte) (h : Memory.wf m) : Memory.wf (writeAll m i bs) := by
  induction bs generalizing m i with
  | nil => exact h
  | cons b bs ih => exact ih _ _ (Memory.write_wf _ _ _ h)

theorem writeAll_within (m : Memory) (i cap : Nat) (bs : List Byte) (h : Memory.within m cap)
    (hi : i + bs.length ≤ cap) : Memory.within (writeAll m i bs) cap := by
  induction bs generalizing m i with
  | nil => exact h
  | cons b bs ih =>
    simp only [List.length_cons] at hi
    exact ih _ _ (Memory.write_within _ _ _ _ h (by omega)) (by omega)

theorem writeAll_read (m : Memory) (i j : Nat) (bs : List Byte) (h : Memory.wf m) :
    Memory.read (writeAll m i bs) j = if i ≤ j then (bs[j - i]?).getD (Memory.read m j) else Memory.read m j := by
  induction bs generalizing m i with
  | nil => simp [writeAll]
  | cons b bs ih =>
    rw [writeAll, ih _ _ (Memory.write_wf _ _ _ h), Memory.read_write _ _ _ _ h]
    rcases Nat.lt_trichotomy j i with hlt | rfl | hlt
    · simp [show ¬i + 1 ≤ j by omega, show ¬i ≤ j by omega, show j ≠ i by omega]
    · simp
    · have : j - i = j - (i + 1) + 1 := by omega
      simp [show i + 1 ≤ j by omega, show i ≤ j by omega, show j ≠ i by omega, this]

/-- With enough bytes buffered and room in the buffer the capture succeeds, oldest byte first. -/
theorem captureBytes_ok (cap i : Nat) (bs rest : List Byte) (m : Memory) (h : i + bs.length ≤ cap) :
    captureBytes cap i bs.length (bs ++ rest) m = .ok (writeAll m i bs, rest) := by
  induction bs generalizing m i with
  | nil => rfl
  | cons b bs ih =>
    simp only [List.length_cons] at h
    simp only [List.length_cons, List.cons_append, captureBytes, readByte, show i < cap by omega, if_true, writeAll]
    exact ih _ _ (by omega)

/-- The capture has no other success. -/
theorem captureBytes_eq_ok {cap n : Nat} {i : Nat} {rxf rest : List Byte} {m m' : Memory}
    (h : captureBytes cap i n rxf m = .ok (m', rest)) :
    ∃ bs, rxf = bs ++ rest ∧ bs.length = n ∧ (0 < n → i + n ≤ cap) ∧ m' = writeAll m i bs := by
  induction n generalizing i rxf m with
  | zero =>
    simp only [captureBytes, Except.ok.injEq, Prod.mk.injEq] at h
    exact ⟨[], by simp [h.2], rfl, by simp, h.1.symm⟩
  | succ n ih =>
    cases rxf with
    | nil => simp [captureBytes, readByte] at h
    | cons b rxf =>
      simp only [captureBytes, readByte] at h
      split at h
      · obtain ⟨bs, rfl, hl, hc, rfl⟩ := ih h
        refine ⟨b :: bs, rfl, by simp [hl], fun _ => ?_, rfl⟩
        rcases Nat.eq_zero_or_pos n with h0 | h0
        · omega
        · have := hc h0; omega
      · cases h

/-- The current packet's buffer and the receiver after a capture. -/
def captured (m : Memory) (rest : List Byte) (s : State) : State :=
  { s with
    cur := { s.cur with entry := { s.cur.entry with msg := { s.cur.entry.msg with adu := m } } }
    rxf := rest }

theorem captureReply_ok (f : State → Res) (s : State) (bs rest : List Byte) (hrx : s.rxf = bs ++ rest)
    (h : bs.length ≤ s.par.aduCap) :
    captureReply bs.length f s = f (captured (writeAll s.cur.entry.msg.adu 0 bs) rest s) := by
  have hb := captureBytes_ok s.par.aduCap 0 bs rest s.cur.entry.msg.adu (by omega)
  simp only [captureReply, hrx, hb, captured]

theorem captureReply_eq_next {n : Nat} {f : State → Res} {s t : State} (h : captureReply n f s = .next t) :
    ∃ bs rest, s.rxf = bs ++ rest ∧ bs.length = n ∧ (0 < n → n ≤ s.par.aduCap) ∧
      f (captured (writeAll s.cur.entry.msg.adu 0 bs) rest s) = .next t := by
  simp only [captureReply] at h
  split at h
  · cases h
  · obtain ⟨bs, hrx, hl, hc, rfl⟩ := captureBytes_eq_ok ‹_›
    exact ⟨bs, _, hrx, hl, by simpa using hc, h⟩

/-! ### The start of a transmission (R136) -/

/-- What `start_tx()` leaves. -/
def started (s : State) : State :=
  { s with
    dir := if s.ctrl.diren then true else s.dir
    rxf := []
    txq := s.txq ++ Memory.bytes s.cur.entry.msg.adu 0 s.cur.entry.msg.txLength.toNat
    tocnt := s.timeout
    es := .tx }

theorem startTx_eq (s : State) :
    startTx s = if s.cur.entry.msg.txLength.toNat ≤ s.par.aduCap then .next (started s) else .fault .aduOutOfRange :=
  rfl

theorem startTx_eq_next {s t : State} (h : startTx s = .next t) :
    s.cur.entry.msg.txLength.toNat ≤ s.par.aduCap ∧ t = started s := by
  rw [startTx_eq] at h
  split at h
  · exact ⟨‹_›, by cases h; rfl⟩
  · cases h

/-! ### The admission test (R170) -/

theorem admission_eq_none (blocking : Bool) (s : State) :
    admission blocking s = none ↔
      ready s = true ∧ (blocking = true → s.syncReq = false ∧ s.syncBusy = false) ∧
        Message.lengthsLegal s.par.aduCap s.stg.msg := by
  have key : ∀ (P : Prop) [Decidable P] (a b r y : Bool),
      ((if a = false then some Reason.notReady else if b && (r || y) then some .syncOccupied
        else if P then none else some .badLengths) = none ↔
        a = true ∧ (b = true → r = false ∧ y = false) ∧ P) := by
    intro P _ a b r y
    by_cases hP : P <;> cases a <;> cases b <;> cases r <;> cases y <;> simp [hP]
  exact key _ _ _ _ _

/-! ### The arms of the poll (R132) -/

/-- What a single arm of the poll can do, given that it answers a next state. -/
theorem pollArm_cases {s t : State} (h : pollArm s = .next t) :
    (t = s ∧ s.es ≠ .awaitReply) ∨
    (s.es = .idle ∧ s.cur.valid = false ∧ s.syncReq = false ∧ s.head ≠ s.tail ∧
      ∃ e, s.q[s.tail.toNat]? = some e ∧ e.msg.txLength.toNat ≤ s.par.aduCap ∧
        t = started { s with q := s.q.set s.tail.toNat { e with sent := true }, tail := ringNext s s.tail,
                             cur := { valid := true, entry := { e with sent := true } } }) ∨
    (s.es = .tx ∧ s.txq = [] ∧
      t = { s with rxf := [], dir := if s.ctrl.diren then false else s.dir, es := .awaitReply }) ∨
    (s.es = .awaitReply ∧ awaitDecided { s with tocnt := s.tocnt - 1 } = .next t) ∨
    (s.es = .gotReply ∧ t = deliverReply s) ∨
    (s.es = .exception ∧ t = deliverException s) ∨
    (s.es = .timeout ∧ t = deliverTimeout s) ∨
    (s.es = .silent ∧ ∃ d, silenceFor s s.baud = some d ∧ d ≤ (s.ms - s.silt0).toNat ∧
      t = flushIfPending { s with cur := { s.cur with valid := false }, es := .idle }) := by
  unfold pollArm at h
  split at h
  · rename_i hes
    unfold idleArm at h
    split at h
    · rename_i hc
      obtain ⟨hv, hr, hne⟩ := hc
      split at h
      · cases h
      · rename_i e he
        obtain ⟨hl, ht⟩ := startTx_eq_next h
        exact .inr (.inl ⟨hes, hv, hr, by simpa [ringEmpty] using hne, e, he, hl, ht⟩)
    · cases h; exact .inl ⟨rfl, by simp [hes]⟩
  · rename_i hes
    unfold txArm at h
    split at h
    · cases h
      exact .inr (.inr (.inl ⟨hes, List.eq_nil_of_length_eq_zero ‹_›, rfl⟩))
    · cases h; exact .inl ⟨rfl, by simp [hes]⟩
  · exact .inr (.inr (.inr (.inl ⟨‹_›, h⟩)))
  · cases h; exact .inr (.inr (.inr (.inr (.inl ⟨‹_›, rfl⟩))))
  · cases h; exact .inr (.inr (.inr (.inr (.inr (.inl ⟨‹_›, rfl⟩)))))
  · cases h; exact .inr (.inr (.inr (.inr (.inr (.inr (.inl ⟨‹_›, rfl⟩))))))
  · rename_i hes
    unfold silentArm at h
    split at h
    · cases h
    · rename_i d hd
      split at h
      · cases h
        exact .inr (.inr (.inr (.inr (.inr (.inr (.inr ⟨hes, d, hd, ‹_›, rfl⟩))))))
      · cases h; exact .inl ⟨rfl, by simp [hes]⟩

/-- What the AwaitReply arm can do after its decrement (R139 to R145). -/
theorem awaitDecided_cases {s t : State} (h : awaitDecided s = .next t) :
    (s.tocnt = 0 ∧ s.cur.entry.async = true ∧ t = enterSilent s) ∨
    (s.tocnt = 0 ∧ s.cur.entry.async = false ∧ s.rxf.length < 3 ∧ t = { s with es := .timeout }) ∨
    (s.tocnt = 0 ∧ s.cur.entry.async = false ∧ ∃ bs rest, s.rxf = bs ++ rest ∧ bs.length = 3 ∧ 3 ≤ s.par.aduCap ∧
      inspectReply (captured (writeAll s.cur.entry.msg.adu 0 bs) rest s) = .next t) ∨
    (s.tocnt ≠ 0 ∧ s.rxf.length < s.cur.entry.msg.rxLength.toNat ∧ t = s) ∨
    (s.tocnt ≠ 0 ∧ ∃ bs rest, s.rxf = bs ++ rest ∧ bs.length = s.cur.entry.msg.rxLength.toNat ∧
      (0 < bs.length → bs.length ≤ s.par.aduCap) ∧
      classifyReply (captured (writeAll s.cur.entry.msg.adu 0 bs) rest s) = .next t) := by
  unfold awaitDecided at h
  split at h
  · rename_i h0
    split at h
    · cases h; exact .inl ⟨h0, ‹_›, rfl⟩
    · rename_i ha
      unfold timeoutSync at h
      split at h
      · obtain ⟨bs, rest, h1, h2, h3, h4⟩ := captureReply_eq_next h
        exact .inr (.inr (.inl ⟨h0, by simpa using ha, bs, rest, h1, h2, h3 (by omega), h4⟩))
      · rename_i hlen
        cases h; exact .inr (.inl ⟨h0, by simpa using ha, by simpa [pendingRx] using hlen, rfl⟩)
  · rename_i h0
    split at h
    · obtain ⟨bs, rest, h1, h2, h3, h4⟩ := captureReply_eq_next h
      exact .inr (.inr (.inr (.inr ⟨h0, bs, rest, h1, h2, by rw [h2]; exact h3, h4⟩)))
    · rename_i hlen
      cases h; exact .inr (.inr (.inr (.inl ⟨h0, by simpa [pendingRx] using hlen, rfl⟩)))

/-- The classification of a captured reply has four outcomes (R143 to R145). -/
theorem classifyReply_cases {s t : State} (h : classifyReply s = .next t) :
    (s.cur.entry.msg.crcCheck = true → 2 ≤ s.cur.entry.msg.rxLength.toNat) ∧
    if s.cur.entry.msg.crcCheck = false ∨ crcValid s.cur.entry.msg.adu s.cur.entry.msg.rxLength.toNat = true then
      t = (if s.cur.entry.async then enterSilent (emit .reply codeNone (some s.cur.entry.msg) s)
        else { s with es := .gotReply })
    else
      t = (if s.cur.entry.async then enterSilent (emit .crcFail codeNone none s)
        else { s with exc := codeNone, exkind := false, es := .exception }) := by
  unfold classifyReply at h
  simp only at h
  split at h
  · rename_i hc
    split at h
    · cases h
    · rename_i hl
      refine ⟨fun _ => by omega, ?_⟩
      split at h
      · rename_i hv
        simp only [hv, or_true, if_true]
        unfold replyOk at h
        split at h <;> (cases h; simp [*])
      · rename_i hv
        simp only [hc, hv, reduceCtorEq, or_self, if_false]
        unfold replyCrcMismatch at h
        split at h <;> (cases h; simp [*])
  · rename_i hc
    refine ⟨fun h' => absurd h' hc, ?_⟩
    simp only [hc, true_or, if_true]
    unfold replyOk at h
    split at h <;> (cases h; simp [*])

/-- The inspection of the three bytes has two outcomes (R142). -/
theorem inspectReply_cases {s t : State} (h : inspectReply s = .next t) :
    t = (if Memory.read s.cur.entry.msg.adu 1 &&& excMask ≠ 0 then
          { s with exc := Memory.read s.cur.entry.msg.adu 2, exkind := true, es := .exception }
        else { s with es := .timeout }) := by
  unfold inspectReply at h
  split at h
  · cases h; rw [if_pos ‹_›]
  · cases h; rw [if_neg ‹_›]

/-- A poll either leaves the state as it is, or is one arm between setting and clearing the guard (R132). -/
theorem pollOnce_cases {s t : State} (h : pollOnce s = .next t) :
    ((s.ms = s.lastMs ∨ s.guard = true) ∧ t = s) ∨
    (s.ms ≠ s.lastMs ∧ s.guard = false ∧
      ∃ u, pollArm { s with lastMs := s.ms, guard := true } = .next u ∧ t = { u with guard := false }) := by
  unfold pollOnce at h
  split at h
  · cases h; exact .inl ⟨.inl ‹_›, rfl⟩
  · split at h
    · cases h; exact .inl ⟨.inr ‹_›, rfl⟩
    · obtain ⟨u, hu, ht⟩ := andThen_eq_next h
      cases ht
      exact .inr ⟨‹_›, by simpa using ‹¬s.guard = true›, u, hu, rfl⟩

end Sys2Proof.Machine
end

