-- ==== Sys2Proof/Laws/Ring.lean ====
section
/-! SUPPORT. The ring read as a queue: what enqueueing, dequeueing and flushing do to `waiting`. -/

namespace Sys2Proof

open Sys2Proof.Machine

/-- A remainder below twice the modulus, without the remainder. -/
theorem mod_below_twice (a n : Nat) (h : a < 2 * n) : a % n = if a < n then a else a - n := by
  split
  · exact Nat.mod_eq_of_lt ‹_›
  · rw [Nat.mod_eq_sub_mod (by omega), Nat.mod_eq_of_lt (by omega)]

/-- `next(i)` as a number, in a ring of at most 65536 slots (R24). -/
theorem toNat_ringNext (s : State) (i : Word) (h0 : 0 < s.par.qn) (h : s.par.qn ≤ 65536) :
    (ringNext s i).toNat = (i.toNat + 1) % s.par.qn := by
  have := Nat.mod_lt (i.toNat + 1) h0
  simp only [ringNext, BitVec.toNat_ofNat]
  exact Nat.mod_eq_of_lt (by omega)

/-- `waiting` sees only the ring. -/
theorem waiting_congr (s t : State) (hp : t.par = s.par) (hq : t.q = s.q) (hh : t.head = s.head)
    (ht : t.tail = s.tail) : waiting t = waiting s := by
  simp [waiting, waitingCount, hp, hq, hh, ht]

/-- A ring whose indices are equal has nothing waiting. -/
theorem waiting_flushed (s : State) (h : s.head = s.tail) : waiting s = [] := by
  simp [waiting, waitingCount, h]

/-- Fewer than QN entries wait. -/
theorem waitingCount_lt (s : State) (h : 0 < s.par.qn) : waitingCount s < s.par.qn := Nat.mod_lt _ h

/-- Every position of `waiting` is a slot of the ring. -/
theorem length_waiting (s : State) (h0 : 0 < s.par.qn) (hq : s.q.length = s.par.qn) :
    (waiting s).length = waitingCount s := by
  have hsome : ∀ k, ∃ e, s.q[(s.tail.toNat + k) % s.par.qn]? = some e := fun k =>
    ⟨_, List.getElem?_eq_getElem (by rw [hq]; exact Nat.mod_lt _ h0)⟩
  have key : ∀ l : List Nat,
      (l.filterMap fun k => s.q[(s.tail.toNat + k) % s.par.qn]?).length = l.length := by
    intro l
    induction l with
    | nil => rfl
    | cons k l ih =>
      obtain ⟨e, he⟩ := hsome k
      simp [he, ih]
  simpa [waiting] using key (List.range (waitingCount s))

/-- Enqueueing into a ring that is not full appends the entry to the queue (R171, R174). -/
theorem waiting_enqueue (s : State) (e : Entry) (hq : s.q.length = s.par.qn) (hle : s.par.qn ≤ 65536)
    (hh : s.head.toNat < s.par.qn) (ht : s.tail.toNat < s.par.qn) (hfull : ringFull s = false) :
    waiting (enqueue e s) = waiting s ++ [e] := by
  have h0 : 0 < s.par.qn := by omega
  have hnext := toNat_ringNext s s.head h0 hle
  have hne : (s.head.toNat + 1) % s.par.qn ≠ s.tail.toNat := by
    intro he
    have : ringNext s s.head = s.tail := BitVec.eq_of_toNat_eq (hnext.trans he)
    simp [ringFull, this] at hfull
  rw [← hnext] at hne
  rw [mod_below_twice _ _ (by omega)] at hnext
  have hlt : (ringNext s s.head).toNat < s.par.qn := by split at hnext <;> omega
  have hcount : waitingCount (enqueue e s) = waitingCount s + 1 := by
    simp only [waitingCount, enqueue]
    rw [mod_below_twice _ _ (by omega), mod_below_twice _ _ (by omega)]
    split at hnext <;> split <;> split <;> omega
  have hlast : (s.tail.toNat + waitingCount s) % s.par.qn = s.head.toNat := by
    simp only [waitingCount]
    rw [mod_below_twice (s.head.toNat + s.par.qn - s.tail.toNat) _ (by omega)]
    split <;> rw [mod_below_twice _ _ (by omega)] <;> split <;> omega
  have hold : ∀ k, k < waitingCount s → (s.tail.toNat + k) % s.par.qn ≠ s.head.toNat := by
    intro k hk
    have hc := waitingCount_lt s h0
    simp only [waitingCount] at hk hc
    rw [mod_below_twice (s.head.toNat + s.par.qn - s.tail.toNat) _ (by omega)] at hk hc
    rw [mod_below_twice _ _ (by split at hk <;> omega)]
    split at hk <;> split <;> omega
  simp only [waiting, hcount, List.range_succ, List.filterMap_append]
  congr 1
  · refine List.filterMap_congr fun k hk => ?_
    simp only [enqueue]
    exact List.getElem?_set_ne (Ne.symm (hold k (List.mem_range.1 hk)))
  · simp [enqueue, hlast, hq, hh]

/-- Consuming the entry at TAIL removes the queue's first (R135, R174). -/
theorem waiting_dequeue (s t : State) (x : Entry) (hq : s.q.length = s.par.qn) (hle : s.par.qn ≤ 65536)
    (hh : s.head.toNat < s.par.qn) (ht : s.tail.toNat < s.par.qn) (hne : s.head ≠ s.tail)
    (hx : s.q[s.tail.toNat]? = some x) (tpar : t.par = s.par) (thead : t.head = s.head)
    (tq : t.q = s.q.set s.tail.toNat { x with sent := true }) (ttail : t.tail = ringNext s s.tail) :
    waiting s = x :: waiting t := by
  have h0 : 0 < s.par.qn := by omega
  have hnext := toNat_ringNext s s.tail h0 hle
  have hne' : s.head.toNat ≠ s.tail.toNat := fun h => hne (BitVec.eq_of_toNat_eq h)
  have hcount : waitingCount s = waitingCount t + 1 := by
    have hn := hnext
    rw [mod_below_twice _ _ (by omega)] at hn
    simp only [waitingCount, tpar, thead, ttail]
    rw [mod_below_twice _ _ (by omega), mod_below_twice _ _ (by split at hn <;> omega)]
    split at hn <;> split <;> split <;> omega
  have hc : waitingCount s < s.par.qn := waitingCount_lt s h0
  simp only [waiting, hcount, List.range_succ_eq_map, List.filterMap_cons, Nat.add_zero, Nat.mod_eq_of_lt ht, hx,
    List.filterMap_map]
  congr 1
  refine List.filterMap_congr fun k hk => ?_
  have hk := List.mem_range.1 hk
  simp only [Function.comp, tpar, tq, ttail, hnext]
  have hidx : (s.tail.toNat + (k + 1)) % s.par.qn = ((s.tail.toNat + 1) % s.par.qn + k) % s.par.qn := by
    rw [Nat.mod_add_mod]; congr 1; omega
  rw [Nat.succ_eq_add_one, hidx, List.getElem?_set_ne]
  rw [← hidx, mod_below_twice _ _ (by omega)]
  split <;> omega

end Sys2Proof
end

