-- ==== Sys2Proof/Laws/Invariant.lean ====
section
/-! SUPPORT. How the engine's operations treat the invariant of Safety.lean, one lemma per arm of the poll. Inside an
effective poll GUARD is set, so these lemmas speak of the state with GUARD cleared. -/

namespace Sys2Proof

open Sys2Proof.Machine

/-! ### What the invariant gives at once -/

theorem inv_bounds {s : State} (h : BlockInv s) :
    0 < s.par.qn ∧ s.par.qn ≤ 65536 ∧ 6 ≤ s.par.aduCap ∧ 1 ≤ s.timeout.toNat ∧ s.timeout.toNat ≤ s.par.tmax := by
  have ht := h.timeoutInRange
  obtain ⟨⟨_, _⟩, ⟨_, _⟩, _, _, _, _, _, _⟩ := h.parLegal
  omega

theorem inv_valid {s : State} (h : BlockInv s) (hes : s.es ≠ .idle) : s.cur.valid = true := by
  cases hv : s.cur.valid
  · exact absurd (h.idleIff.2 hv) hes
  · rfl

theorem inv_dir_low {s : State} (h : BlockInv s) (hes : s.es ≠ .tx) : s.dir = false := by
  rw [h.dirLevel]; cases hh : s.es <;> simp_all

theorem inv_notBusy_async {s : State} (h : BlockInv s) (ha : s.cur.entry.async = true) : s.syncBusy = false := by
  cases hb : s.syncBusy
  · rfl
  · have := (h.busyInFlight hb).2.1; simp_all

theorem inv_notBusy_silent {s : State} (h : BlockInv s) (hes : s.es = .silent) : s.syncBusy = false := by
  cases hb : s.syncBusy
  · rfl
  · exact absurd hes (h.busyInFlight hb).2.2.2

/-! ### Updates the invariant does not mention -/

/-- CRC, CRCOK, the traces, the transport's queues, the tick and the silence timer are free. -/
theorem inv_free {s : State} (h : BlockInv s) (a b c d e f g i j k l) :
    BlockInv { s with
      crc := a, crcOk := b, rsp := c, cpl := d, lineOut := e, txq := f, rxf := g, ms := i, lastMs := j, silt0 := k
      schedule := l } := { h with }

theorem inv_exc {s : State} (h : BlockInv s) (c : Byte) (k : Bool) (hk : k = false → c = codeNone) :
    BlockInv { s with exc := c, exkind := k } := { h with excCode := hk }

theorem inv_tocnt {s : State} (h : BlockInv s) (c : Word)
    (hc : s.es = .tx ∨ s.es = .awaitReply → 1 ≤ c.toNat ∧ c.toNat ≤ s.par.tmax) : BlockInv { s with tocnt := c } :=
  { h with countdownArmed := hc }

theorem inv_captured {s : State} (h : BlockInv s) (bs rest : List Byte) (hl : bs.length ≤ s.par.aduCap) :
    BlockInv (captured (writeAll s.cur.entry.msg.adu 0 bs) rest s) :=
  { h with
    curAdu := ⟨writeAll_wf _ _ _ h.curAdu.1, writeAll_within _ _ s.par.aduCap _ h.curAdu.2 (by omega)⟩ }

/-! ### The arms -/

/-- Idle (R135): the entry at TAIL starts. -/
theorem inv_idleStart {s : State} (h : BlockInv s) (e : Entry) (hes : s.es = .idle) (hne : s.head ≠ s.tail)
    (he : s.q[s.tail.toNat]? = some e) :
    BlockInv (started { s with
      q := s.q.set s.tail.toNat { e with sent := true }, tail := ringNext s s.tail
      cur := ⟨true, { e with sent := true }⟩ }) := by
  obtain ⟨hq0, hq1, _, hto⟩ := inv_bounds h
  have hw := waiting_dequeue s
    (started { s with
      q := s.q.set s.tail.toNat { e with sent := true }, tail := ringNext s s.tail
      cur := ⟨true, { e with sent := true }⟩ })
    e h.qLength hq1 h.headInRing h.tailInRing hne he rfl rfl rfl rfl
  have hgood : WaitingGood s.par.aduCap e := h.waitingLegal e (by rw [hw]; simp)
  have hadu := h.qAdu _ (List.mem_of_getElem? he)
  have hb : s.syncBusy = false := by
    cases hb : s.syncBusy
    · rfl
    · exact absurd hes (h.busyInFlight hb).2.2.1
  have hready := h.readyFirst (.inl hne)
  have hdir := h.dirLevel
  exact { h with
    qLength := by simpa [started] using h.qLength
    qAdu := fun x hx => by
      rcases List.mem_or_eq_of_mem_set hx with hx | rfl
      · exact h.qAdu _ hx
      · exact hadu
    curAdu := hadu
    idleIff := by simp [started]
    terminalSync := by simp [started, terminalState]
    busyInFlight := by simp [started, hb]
    inFlightBusy := by simp [started, hgood.2.1]
    requestNotBusy := by simp [started, hb]
    countdownArmed := fun _ => hto
    tailInRing := by
      simp only [started, toNat_ringNext s s.tail hq0 hq1]; exact Nat.mod_lt _ hq0
    curLegal := fun _ => ⟨hgood.1, rfl⟩
    waitingLegal := fun x hx => h.waitingLegal x (by rw [hw]; exact List.mem_cons_of_mem _ hx)
    readyFirst := fun _ => hready
    dirLevel := by
      simp only [started, beq_self_eq_true, Bool.and_true]
      cases hd : s.ctrl.diren <;> simp [hd, hdir]
    pendingInFlight := fun _ => rfl }

/-- TX (R138): the line is turned round. -/
theorem inv_txDrained {s : State} (h : BlockInv s) (hes : s.es = .tx) :
    BlockInv { s with rxf := [], dir := if s.ctrl.diren then false else s.dir, es := .awaitReply } := by
  have hv := inv_valid h (by simp [hes])
  exact { h with
    idleIff := by simp [hv]
    terminalSync := by simp [terminalState]
    busyInFlight := fun hb => ⟨(h.busyInFlight hb).1, (h.busyInFlight hb).2.1, by simp, by simp⟩
    inFlightBusy := fun a b _ => h.inFlightBusy a b (by simp [hes])
    countdownArmed := fun _ => h.countdownArmed (.inl hes)
    dirLevel := by
      have := h.dirLevel
      cases hd : s.ctrl.diren <;> simp [hd] at this ⊢; exact this }

/-- A change of ES away from Idle and TX that respects who may hold which state (R54(b), (c)). -/
theorem inv_es {s : State} (h : BlockInv s) (hv : s.cur.valid = true) (x : EngineState) (hi : x ≠ .idle)
    (ht : x ≠ .tx) (hw : x = .awaitReply → s.es = .awaitReply)
    (ha : x ≠ .silent → s.cur.entry.async = true → x = .awaitReply) (hs : s.es ≠ .silent) (hd : s.es ≠ .tx)
    (hb : x = .silent → s.syncBusy = false) : BlockInv { s with es := x } :=
  { h with
    idleIff := by simp [hi, hv]
    terminalSync := by
      intro hterm
      refine ⟨hv, ?_⟩
      cases hasync : s.cur.entry.async
      · rfl
      · have := ha (by intro e; subst e; simp [terminalState] at hterm) hasync
        subst this; simp [terminalState] at hterm
    busyInFlight := by
      intro b
      refine ⟨(h.busyInFlight b).1, (h.busyInFlight b).2.1, hi, fun e => ?_⟩
      have := hb e; simp_all
    inFlightBusy := fun a b _ => h.inFlightBusy a b hs
    countdownArmed := by
      intro c
      rcases c with c | c
      · exact absurd c ht
      · exact h.countdownArmed (.inr (hw c))
    dirLevel := by
      have := inv_dir_low h hd
      cases x <;> simp_all }

/-- Leaving AwaitReply with the countdown run down by one (R139 to R145). -/
theorem inv_leaveAwait {s : State} (h : BlockInv s) (hes : s.es = .awaitReply) (c : Word) (x : EngineState)
    (hx : x = .silent ∧ s.cur.entry.async = true ∨
      (x = .gotReply ∨ x = .exception ∨ x = .timeout) ∧ s.cur.entry.async = false) :
    BlockInv { s with es := x, tocnt := c } := by
  have hne : x ≠ .idle ∧ x ≠ .tx ∧ x ≠ .awaitReply := by
    rcases hx with ⟨rfl, _⟩ | ⟨rfl | rfl | rfl, _⟩ <;> simp
  refine inv_tocnt (s := { s with es := x }) ?_ c (fun hh => ?_)
  · refine inv_es h (inv_valid h (by simp [hes])) x hne.1 hne.2.1 (fun e => absurd e hne.2.2) ?_ (by simp [hes])
      (by simp [hes]) ?_
    · intro a b
      rcases hx with ⟨rfl, _⟩ | ⟨_, hh⟩
      · exact absurd rfl a
      · rw [hh] at b; cases b
    · rintro rfl
      rcases hx with ⟨_, hh⟩ | ⟨hh, _⟩
      · exact inv_notBusy_async h hh
      · simp at hh
  · rcases hh with hh | hh
    · exact absurd hh hne.2.1
    · exact absurd hh hne.2.2

/-- AwaitReply (R139 to R145). -/
theorem inv_await {s t : State} (h : BlockInv { s with guard := false }) (hes : s.es = .awaitReply)
    (ht : awaitDecided { s with tocnt := s.tocnt - 1 } = .next t) : BlockInv { t with guard := false } := by
  have hv : s.cur.valid = true := inv_valid (s := { s with guard := false }) h (by show s.es ≠ .idle; simp [hes])
  have hlegal : Message.lengthsLegal s.par.aduCap s.cur.entry.msg := (h.curLegal hv).1
  have hcap : 6 ≤ s.par.aduCap := (inv_bounds h).2.2.1
  have hcount : 1 ≤ s.tocnt.toNat ∧ s.tocnt.toNat ≤ s.par.tmax := h.countdownArmed (.inr hes)
  have hless : (s.tocnt - 1).toNat = s.tocnt.toNat - 1 := by bv_omega
  have hcapt : ∀ bs rest, bs.length ≤ s.par.aduCap →
      BlockInv { captured (writeAll s.cur.entry.msg.adu 0 bs) rest s with guard := false } :=
    fun bs rest hl => inv_captured h bs rest hl
  rcases awaitDecided_cases ht with ⟨_, ha, rfl⟩ | ⟨_, ha, _, rfl⟩ | ⟨_, ha, bs, rest, _, hl, _, hi⟩ | ⟨h0, _, rfl⟩ |
    ⟨_, bs, rest, _, hl, _, hi⟩
  · exact inv_free (inv_leaveAwait h hes (s.tocnt - 1) .silent (.inl ⟨rfl, ha⟩)) _ _ _ _ _ _ _ _ _ _ _
  · exact inv_leaveAwait h hes (s.tocnt - 1) .timeout (.inr ⟨by simp, ha⟩)
  · have h2 := hcapt bs rest (by omega)
    have hcase := inspectReply_cases hi
    split at hcase
    · subst hcase
      exact inv_leaveAwait (inv_exc h2 _ true (by simp)) hes (s.tocnt - 1) .exception (.inr ⟨by simp, ha⟩)
    · subst hcase
      exact inv_leaveAwait h2 hes (s.tocnt - 1) .timeout (.inr ⟨by simp, ha⟩)
  · refine inv_tocnt h _ (fun _ => ?_)
    show 1 ≤ (s.tocnt - 1).toNat ∧ (s.tocnt - 1).toNat ≤ s.par.tmax
    have : (s.tocnt - 1).toNat ≠ 0 := fun hz => h0 (BitVec.eq_of_toNat_eq (by simpa using hz))
    omega
  · have hl' : bs.length = s.cur.entry.msg.rxLength.toNat := hl
    have h2 := hcapt bs rest (by rw [hl']; exact hlegal.2.2.1)
    obtain ⟨_, hcase⟩ := classifyReply_cases hi
    have ea : (captured (writeAll s.cur.entry.msg.adu 0 bs) rest { s with tocnt := s.tocnt - 1 }).cur.entry.async =
        s.cur.entry.async := rfl
    simp only at hcase
    rw [ea] at hcase
    split at hcase <;> cases ha : s.cur.entry.async <;> rw [ha] at hcase <;>
      simp only [if_true, if_false, Bool.false_eq_true] at hcase <;> subst hcase
    · exact inv_leaveAwait h2 hes (s.tocnt - 1) .gotReply (.inr ⟨by simp, ha⟩)
    · exact inv_free (inv_leaveAwait h2 hes (s.tocnt - 1) .silent (.inl ⟨rfl, ha⟩)) _ _ _ _ _ _ _ _ _ _ _
    · exact inv_leaveAwait (inv_exc h2 codeNone false (fun _ => rfl)) hes (s.tocnt - 1) .exception
        (.inr ⟨by simp, ha⟩)
    · exact inv_free (inv_leaveAwait h2 hes (s.tocnt - 1) .silent (.inl ⟨rfl, ha⟩)) _ _ _ _ _ _ _ _ _ _ _

/-- The three deliveries (R146 to R148, R186). -/
theorem inv_deliver {s : State} (h : BlockInv s) (ht : terminalState s.es = true) (k : Kind) (c : Byte)
    (m : Option Message) : BlockInv (deliver k c m s) := by
  have hv := h.terminalSync ht
  have hd : s.dir = false := inv_dir_low h (by intro e; simp [e, terminalState] at ht)
  exact { h with
    idleIff := by simp [hv]
    terminalSync := by simp [terminalState]
    busyInFlight := by simp
    inFlightBusy := by simp
    requestNotBusy := by simp
    countdownArmed := by simp
    dirLevel := by simp [hd] }

/-- Silent (R152): the slot is freed, and the ring flushed if a routine reset waited for it. -/
theorem inv_silentEnd {s : State} (h : BlockInv s) (hes : s.es = .silent) :
    BlockInv (flushIfPending { s with cur := { s.cur with valid := false }, es := .idle }) := by
  have hd := inv_dir_low h (by simp [hes])
  have hb := inv_notBusy_silent h hes
  have hr := h.readyFirst (.inr (.inr (inv_valid h (by simp [hes]))))
  unfold flushIfPending
  split
  · exact { h with
      idleIff := by simp
      terminalSync := by simp [terminalState]
      busyInFlight := by simp [hb]
      inFlightBusy := by simp
      countdownArmed := by simp
      curLegal := by simp
      headInRing := h.tailInRing
      waitingLegal := by rw [waiting_flushed _ rfl]; simp
      readyFirst := fun _ => hr
      dirLevel := by simp [hd]
      pendingInFlight := by simp }
  · rename_i hp
    exact { h with
      idleIff := by simp
      terminalSync := by simp [terminalState]
      busyInFlight := by simp [hb]
      inFlightBusy := by simp
      countdownArmed := by simp
      curLegal := by simp
      readyFirst := fun _ => hr
      dirLevel := by simp [hd]
      pendingInFlight := by simpa using hp }

/-- Any arm of the poll (R132). -/
theorem inv_pollArm {s t : State} (h : BlockInv { s with guard := false }) (ht : pollArm s = .next t) :
    BlockInv { t with guard := false } := by
  rcases pollArm_cases ht with ⟨rfl, _⟩ | ⟨hes, _, _, hne, e, he, _, rfl⟩ | ⟨hes, _, rfl⟩ | ⟨hes, ha⟩ | ⟨hes, rfl⟩ |
    ⟨hes, rfl⟩ | ⟨hes, rfl⟩ | ⟨hes, d, _, _, rfl⟩
  · exact h
  · exact inv_idleStart h e hes hne he
  · exact inv_txDrained h hes
  · exact inv_await h hes ha
  · exact inv_deliver h (by simp [hes, terminalState]) _ _ _
  · exact inv_deliver h (by simp [hes, terminalState]) _ _ _
  · exact inv_deliver h (by simp [hes, terminalState]) _ _ _
  · have hend := inv_silentEnd h hes
    unfold flushIfPending at hend ⊢
    split at hend <;> simp_all

end Sys2Proof
end

