-- ==== Sys2Proof/Laws/PerInstr.lean ====
section
/-! SUPPORT. One lemma per command for each family of statements about all commands (LAWS.json). -/

namespace Sys2Proof.Laws.EncodesInRow

/-- R82: the encoding of a command lies in its own row of the opcode table, `w & mask = match`. -/
def Statement (i : Instr) : Prop := encode i &&& (opcodeRow i).mask = (opcodeRow i).pattern

/-- A row whose mask covers the opcode and the must-be-zero bits of the other fields. -/
theorem of_fields {i : Instr} {op a ma : Byte} {v mv : Word} (he : encode i = commandWord op a v)
    (hm : (opcodeRow i).mask = commandWord 0xFF ma mv) (ha : a &&& ma = 0) (hv : v &&& mv = 0)
    (hp : (opcodeRow i).pattern = commandWord op 0 0) : Statement i := by
  rw [Statement, he, hm, commandWord_and, ha, hv, hp]
  congr 1
  exact BitVec.and_allOnes

/-- A byte in V leaves V[15:8] zero (R81). -/
theorem byte_high_zero (byte : Byte) : byte.setWidth 16 &&& (0xFF00 : Word) = 0 := by
  revert byte; decide

theorem nop : Statement .nop := by rw [Statement]; decide

theorem crcInit : Statement .crcInit := by rw [Statement]; decide

theorem crcUpd (byte : Byte) : Statement (.crcUpd byte) :=
  of_fields (ma := 0x00) (mv := 0xFFFF) rfl rfl (BitVec.and_zero) (by decide) rfl

theorem crcBuf (len : Nat) : Statement (.crcBuf len) :=
  of_fields (ma := 0xFF) (mv := 0x0000) rfl rfl (by decide) (BitVec.and_zero) rfl

theorem crcAppend (len : Nat) : Statement (.crcAppend len) :=
  of_fields (ma := 0xFF) (mv := 0x0000) rfl rfl (by decide) (BitVec.and_zero) rfl

theorem crcCheck (len : Nat) : Statement (.crcCheck len) :=
  of_fields (ma := 0xFF) (mv := 0x0000) rfl rfl (by decide) (BitVec.and_zero) rfl

theorem stb (index : Nat) (byte : Byte) : Statement (.stb index byte) :=
  of_fields (ma := 0x00) (mv := 0xFF00) rfl rfl (BitVec.and_zero) (byte_high_zero byte) rfl

theorem ldb (index : Nat) : Statement (.ldb index) :=
  of_fields (ma := 0x00) (mv := 0xFFFF) rfl rfl (BitVec.and_zero) (by decide) rfl

theorem wrreg (reg : Nat) (value : Word) : Statement (.wrreg reg value) :=
  of_fields (ma := 0x00) (mv := 0x0000) rfl rfl (BitVec.and_zero) (BitVec.and_zero) rfl

theorem rdreg (reg : Nat) : Statement (.rdreg reg) :=
  of_fields (ma := 0x00) (mv := 0xFFFF) rfl rfl (BitVec.and_zero) (by decide) rfl

theorem sendA : Statement .sendA := by rw [Statement]; decide

theorem sendS : Statement .sendS := by rw [Statement]; decide

theorem getState : Statement .getState := by rw [Statement]; decide

theorem isReady : Statement .isReady := by rw [Statement]; decide

theorem silDef : Statement .silDef := by rw [Statement]; decide

theorem poll : Statement .poll := by rw [Statement]; decide

theorem rstSoft : Statement .rstSoft := by rw [Statement]; decide

theorem rstAbort : Statement .rstAbort := by rw [Statement]; decide

end Sys2Proof.Laws.EncodesInRow
end

