-- ==== Sys2Proof/Machine/Assembler.lean ====
section
/-! DEFINITION. The notation of R94 and R95: statements as mnemonic and operands, the pseudo-instructions and their
expansions, the test-bench directives as scheduled steps. Characters and comments are not modelled: a statement is
already split into its mnemonic and its operands (log entry 16). -/

namespace Sys2Proof.Machine

/-- The number of a register given by name (R32, R94). -/
def regNumber (r : Reg) : Nat :=
  match r with
  | .crc => 0x00
  | .stat => 0x01
  | .ctrl => 0x02
  | .baud => 0x03
  | .timeout => 0x04
  | .txlen => 0x05
  | .rxlen => 0x06
  | .ctx => 0x07
  | .mflags => 0x08
  | .head => 0x09
  | .tail => 0x0A
  | .tocnt => 0x0B
  | .msl => 0x0C
  | .msh => 0x0D
  | .silt0l => 0x0E
  | .silt0h => 0x0F
  | .sil k => 0x10 + k
  | .dsil k => 0x20 + k
  | .exc => 0x30
  | .silact => 0x31

/-- An operand of a statement: a number, or a register by name (R94). -/
inductive AsmOperand where
  | number (n : Nat)
  | register (r : Reg)
  deriving DecidableEq, Repr

/-- The number an operand stands for (R94). -/
def AsmOperand.value (o : AsmOperand) : Nat :=
  match o with
  | .number n => n
  | .register r => regNumber r

/-- The command of a statement, with the operand order of R94; none where the mnemonic, the number of operands or an
operand's size does not fit. -/
def assemble (mnemonic : String) (operands : List AsmOperand) : Option Instr :=
  let candidate : Option Instr :=
    match mnemonic, operands.map AsmOperand.value with
    | "NOP", [] => some .nop
    | "CRC.INIT", [] => some .crcInit
    | "CRC.UPD", [b] => if b < 256 then some (.crcUpd (BitVec.ofNat 8 b)) else none
    | "CRC.BUF", [n] => some (.crcBuf n)
    | "CRC.APPEND", [n] => some (.crcAppend n)
    | "CRC.CHECK", [n] => some (.crcCheck n)
    | "STB", [i, b] => if b < 256 then some (.stb i (BitVec.ofNat 8 b)) else none
    | "LDB", [i] => some (.ldb i)
    | "WRREG", [r, v] => if v < 65536 then some (.wrreg r (BitVec.ofNat 16 v)) else none
    | "RDREG", [r] => some (.rdreg r)
    | "SEND.A", [] => some .sendA
    | "SEND.S", [] => some .sendS
    | "GETSTATE", [] => some .getState
    | "ISREADY", [] => some .isReady
    | "SILDEF", [] => some .silDef
    | "POLL", [] => some .poll
    | "RST.SOFT", [] => some .rstSoft
    | "RST.ABORT", [] => some .rstAbort
    | _, _ => none
  candidate.filter Instr.wellFormed

/-- The pseudo-instructions of R95. -/
inductive Pseudo where
  | ldadu (bytes : List Byte)
  | setmsg (ctx : Word) (cb : Byte) (chk : Bool) (txlen rxlen : Word)
  | send (block : Bool)
  | computeCrc (len : Nat)
  | setsil (k : Nat) (ms : Word)
  | setsilDefault
  | bind (diren : Bool)
  | settings (k t : Word)
  | pump
  deriving DecidableEq, Repr

/-- The expansion of a pseudo-instruction (R95). -/
def Pseudo.expand (p : Pseudo) : List Instr :=
  match p with
  | .ldadu bytes => bytes.zipIdx.map (fun x => .stb x.2 x.1)
  | .setmsg ctx cb chk txlen rxlen =>
    [.wrreg (regNumber .ctx) ctx, .wrreg (regNumber .mflags) (cb ++ (0 : BitVec 7) ++ bit chk),
      .wrreg (regNumber .txlen) txlen, .wrreg (regNumber .rxlen) rxlen]
  | .send block => [if block then .sendS else .sendA]
  | .computeCrc len => [.crcBuf len]
  | .setsil k ms => [.wrreg (regNumber (.sil k)) ms]
  | .setsilDefault => [.silDef]
  | .bind diren => [.wrreg (regNumber .ctrl) ((0 : BitVec 13) ++ bit diren ++ bit true ++ bit false)]
  | .settings k t => [.wrreg (regNumber .baud) k, .wrreg (regNumber .timeout) t, .wrreg (regNumber .ctrl) 0x0001]
  | .pump => [.getState]

/-- The test-bench directives of R94 and R96. -/
inductive Directive where
  | tick (n : Nat)
  | txout (n : Option Nat)
  | rxin (bytes : List Byte)
  | disp
  | por
  deriving DecidableEq, Repr

/-- The steps a directive stands for in the state where it is met (R94; 90_conflicts.md C13). At most one DISP step is
enabled at a time, since GRANT needs Idle and COMPLETE a terminal state. -/
def Directive.events (d : Directive) (s : State) : List Event :=
  match d with
  | .tick n => List.replicate n .tick
  | .txout none => List.replicate s.txq.length .txOut
  | .txout (some n) => List.replicate n .txOut
  | .rxin bytes => bytes.map .rxIn
  | .disp =>
    if grantEnabled s then [.dispGrant]
    else if completeEnabled s then [.dispComplete]
    else []
  | .por => [.por]

end Sys2Proof.Machine
end

