-- ==== Sys2Proof/Tests/Slice0.lean ====
section
/-! SUPPORT. Tests with expected values from spec/95_test_vectors.md (V…) and the opcode table, and the witnesses that
the hypotheses of the statements can be met. -/

namespace Sys2Proof.Tests

open Sys2Proof.Machine Sys2Proof.Claims

/-! ### WellFormed: one ill-formed term for each check (R81) -/

theorem test_wf_len : (Instr.crcBuf 65536).wellFormed = false ∧ (Instr.crcAppend 65536).wellFormed = false ∧
    (Instr.crcCheck 65536).wellFormed = false ∧ (Instr.crcCheck 65535).wellFormed = true := by decide
theorem test_wf_index : (Instr.stb 256 0).wellFormed = false ∧ (Instr.ldb 256).wellFormed = false ∧
    (Instr.ldb 255).wellFormed = true := by decide
theorem test_wf_reg : (Instr.wrreg 256 0).wellFormed = false ∧ (Instr.rdreg 256).wellFormed = false ∧
    (Instr.rdreg 255).wellFormed = true := by decide

/-! ### Decoding: words from R82's match column and the vectors -/

theorem test_decode_nop : decode 0b00000000_00000000_0000000000000000#32 = .instr .nop := by decide
theorem test_decode_crcInit : decode 0b00000001_00000000_0000000000000000#32 = .instr .crcInit := by decide
theorem test_decode_crcUpd : decode 0b00000010_00000001_0000000000000000#32 = .instr (.crcUpd 0x01) := by decide
theorem test_decode_crcBuf : decode 0b00000011_00000000_0000000000000110#32 = .instr (.crcBuf 6) := by decide
theorem test_decode_crcAppend : decode 0b00000100_00000000_0000000000000110#32 = .instr (.crcAppend 6) := by decide
theorem test_decode_crcCheck : decode 0b00000101_00000000_0000000000001000#32 = .instr (.crcCheck 8) := by decide
theorem test_decode_stb : decode 0b00010000_00000101_0000000000001010#32 = .instr (.stb 5 0x0A) := by decide
theorem test_decode_ldb : decode 0b00010001_00000101_0000000000000000#32 = .instr (.ldb 5) := by decide
theorem test_decode_wrreg : decode 0b00010010_00010010_0000000000001010#32 = .instr (.wrreg 0x12 10) := by decide
theorem test_decode_rdreg : decode 0b00010011_00110001_0000000000000000#32 = .instr (.rdreg 0x31) := by decide
theorem test_decode_sendA : decode 0b00100000_00000000_0000000000000000#32 = .instr .sendA := by decide
theorem test_decode_sendS : decode 0b00100001_00000000_0000000000000000#32 = .instr .sendS := by decide
theorem test_decode_getState : decode 0b00100010_00000000_0000000000000000#32 = .instr .getState := by decide
theorem test_decode_isReady : decode 0b00100011_00000000_0000000000000000#32 = .instr .isReady := by decide
theorem test_decode_silDef : decode 0b00100100_00000000_0000000000000000#32 = .instr .silDef := by decide
theorem test_decode_poll : decode 0b00110000_00000000_0000000000000000#32 = .instr .poll := by decide
theorem test_decode_rstSoft : decode 0b00111110_00000000_0000000000000000#32 = .instr .rstSoft := by decide
theorem test_decode_rstAbort : decode 0b00111111_00000000_0000000000000000#32 = .instr .rstAbort := by decide

/-- V33a to V33d, V34a, V34c: reserved opcodes, also with operand bits, and must-be-zero fields. -/
theorem test_decode_refused : [decode 0x06000000, decode 0xFF000000, decode 0x31000000, decode 0x06000001,
    decode 0x00000001, decode 0x10000100] =
    [.rejected .reservedOpcode, .rejected .reservedOpcode, .rejected .reservedOpcode, .rejected .reservedOpcode,
      .rejected .mustBeZero, .rejected .mustBeZero] := by decide

theorem test_table_rows_disjoint :
    opcodeTable.Pairwise (fun r r' => r.pattern &&& r'.mask &&& r.mask ≠ r'.pattern &&& r'.mask &&& r.mask) := by
  decide

theorem test_fetch : decodeTableWord 32 0x1005000A = some (.stb 5 0x0A) := by decide

/-! ### Small states -/

/-- A small legal parameter set: three slots, eight bytes. -/
def pSmall : Params := { Params.example0 with qn := 3, aduCap := 8 }

/-- The request of section 0 of the vectors with its CRC, `01 03 00 00 00 0A C5 CD`. -/
def frame : Memory := [(0, 0x01), (1, 0x03), (5, 0x0A), (6, 0xC5), (7, 0xCD)]

/-- The same without its CRC. -/
def request : Memory := [(0, 0x01), (1, 0x03), (5, 0x0A)]

/-- The staging message of V40: `crc_check = 1`, `cb = 3`, TXLEN 8, RXLEN 7, CTX 0x11. -/
def staged : Staging := ⟨⟨0x11, true, 8, 7, request⟩, 3⟩

/-- What a send of it enqueues. -/
def entry (async sent : Bool) : Entry := ⟨⟨0x11, true, 8, 7, frame⟩, 3, async, sent⟩

def sReset : State := State.resetWith pSmall

/-- After BOOT(2) and the staging writes. -/
def sReady : State :=
  { sReset with ctrl := ⟨true, true, true⟩, baud := 1, tbaud := some 1, timeout := 2, stg := staged }

/-- One entry waits; the next poll is effective. -/
def sQueued : State := { sReady with q := sReady.q.set 0 (entry true false), head := 1, ms := 1 }

/-- Two entries wait: the ring of three slots is full. -/
def sFull : State := { sQueued with q := sQueued.q.set 1 (entry true false), head := 2 }

/-- A blocking request is pending. -/
def sPending : State := { sReady with sync := entry false false, syncReq := true, ms := 1 }

/-- A transaction in flight in state `e` with the countdown at `c`, the next poll effective. -/
def sFlight (async : Bool) (e : EngineState) (c : Word) : State :=
  { sReady with
    cur := ⟨true, entry async true⟩, syncBusy := !async && e != .silent, es := e, tocnt := c, ms := 5, lastMs := 4
    dir := e == .tx }

def sTx : State := { sFlight true .tx 2 with txq := [0xCD] }
def sAwait (async : Bool) (c : Word) (rxf : List Byte) : State := { sFlight async .awaitReply c with rxf := rxf }
def sSilent (elapsed : Word32) : State := { sFlight true .silent 1 with silt0 := 5 - elapsed }

/-- `01 03 02 12 34 B5 33`, the reply of section 0, and the same with its last byte wrong. -/
def reply : List Byte := [0x01, 0x03, 0x02, 0x12, 0x34, 0xB5, 0x33]
def badReply : List Byte := [0x01, 0x03, 0x02, 0x12, 0x34, 0xB5, 0x32]
/-- The exception reply `01 83 02 C0 F1`. -/
def excReply : List Byte := [0x01, 0x83, 0x02, 0xC0, 0xF1]

/-- What a command answers, by its last response word. -/
def answer (i : Instr) (s : State) : Option Word32 :=
  match exec i s with
  | .next t => t.rsp.getLast?
  | .fault _ => none
  | .refused _ => none

/-- One field of the state a command leaves. -/
def after {α : Type} (f : State → α) (r : Res) : Option α :=
  match r with
  | .next t => some (f t)
  | .fault _ => none
  | .refused _ => none

theorem inv_sReady : BlockInv sReady := by constructor <;> decide
theorem inv_sQueued : BlockInv sQueued := by constructor <;> decide
theorem inv_sPending : BlockInv sPending := by constructor <;> decide
theorem inv_sTx : BlockInv sTx := by constructor <;> decide
theorem inv_sAwait_async : BlockInv (sAwait true 2 reply) := by constructor <;> decide
theorem inv_sAwait_sync : BlockInv (sAwait false 1 excReply) := by constructor <;> decide
theorem inv_sGotReply : BlockInv (sFlight false .gotReply 1) := by constructor <;> decide
theorem inv_sTimeout : BlockInv (sFlight false .timeout 0) := by constructor <;> decide
theorem inv_sException : BlockInv (sFlight false .exception 1) := by constructor <;> decide
theorem inv_sSilent : BlockInv (sSilent 0) := by constructor <;> decide

/-! ### One-step tests of the commands -/

/-- V1 to V8b. -/
theorem test_crc16 : [crc16 [], crc16 [0x00], crc16 [0x01], crc16 [0xFF], crc16 [0x01, 0x03, 0x00, 0x00, 0x00, 0x0A],
    crc16 [0x31, 0x32, 0x33, 0x34, 0x35, 0x36, 0x37, 0x38, 0x39], crc16 [0x11, 0x03, 0x00, 0x6B, 0x00, 0x03]] =
    [0xFFFF, 0x40BF, 0x807E, 0x00FF, 0xCDC5, 0x4B37, 0x8776] := by decide +kernel
/-- V10a to V10i. -/
theorem test_crcStep : [crcStep 0x0000 0x00, crcStep 0x0001 0x00, crcStep 0x8000 0x00, crcStep 0x0000 0x80,
    crcStep 0xA001 0x00, crcStep 0x00FF 0xFF] = [0x0000, 0xC0C1, 0x0080, 0xA001, 0xC061, 0x0000] := by decide

/-- V31a. -/
theorem test_nop : exec .nop sReady = .next { sReady with rsp := [0x00000000] } := by rfl
/-- V14. -/
theorem test_crcInit : answer .crcInit sReady = some 0x0000FFFF := by decide
/-- V12, V13. -/
theorem test_crcUpd : answer (.crcUpd 0x01) sReady = some 0x0000807E ∧
    after State.crc (exec (.crcUpd 0x03) { sReady with crc := 0x807E }) = some 0x2140 := by decide
/-- V15, V16. -/
theorem test_crcBuf : answer (.crcBuf 6) sReady = some 0x0000CDC5 ∧ answer (.crcBuf 0) sReady = some 0x0000FFFF := by
  decide +kernel
/-- V24 with ADU_CAP 8. -/
theorem test_crcBuf_range : exec (.crcBuf 9) sReady = .next { sReady with rsp := [0x80000003] } := by rfl
/-- V17: the low byte first. -/
theorem test_crcAppend : after (fun t => t.stg.msg.adu) (exec (.crcAppend 6) sReady) = some frame := by decide +kernel
/-- V26 with ADU_CAP 8. -/
theorem test_crcAppend_range : answer (.crcAppend 7) sReady = some 0x80000003 := by decide
/-- V18, V19. -/
theorem test_crcCheck : answer (.crcCheck 8) { sReady with stg := ⟨{ staged.msg with adu := frame }, 3⟩ } = some 1 ∧
    answer (.crcCheck 8) sReady = some 0 := by decide +kernel
/-- V27. -/
theorem test_crcCheck_range : answer (.crcCheck 1) sReady = some 0x80000003 := by decide
/-- V32a. -/
theorem test_stb : after (fun t => Memory.read t.stg.msg.adu 4) (exec (.stb 4 0x0B) sReady) = some 0x0B := by decide
/-- Storing a zero keeps the canonical form. -/
theorem test_stb_zero : after (fun t => t.stg.msg.adu) (exec (.stb 5 0x00) sReady) = some [(0, 0x01), (1, 0x03)] := by
  decide
/-- V32a, V35b with ADU_CAP 8. -/
theorem test_ldb : answer (.ldb 5) sReady = some 0x0000000A ∧ answer (.ldb 8) sReady = some 0x80000003 := by decide
/-- V32b: MFLAGS ignores its bits 7:1. -/
theorem test_wrreg_mflags : after (fun t => t.stg) (exec (.wrreg 0x08 0x07FF) sReset) =
    some ⟨⟨0, true, 0, 0, []⟩, 0x07⟩ := by decide
/-- V32d, V34g, V36c, V36g, V37a, V37c. -/
theorem test_wrreg_checks : after (fun t => t.ctrl) (exec (.wrreg 0x02 0x0006) { sReset with ctrl := ⟨false, true, false⟩ }) =
      some ⟨false, true, false⟩ ∧
    [answer (.wrreg 0x02 8) sReset, answer (.wrreg 0x00 0) sReset, answer (.wrreg 0x14 1) sReset,
      answer (.wrreg 0x03 4) sReset, answer (.wrreg 0x04 1001) sReset] =
    [some 0x80000002, some 0x80000004, some 0x80000004, some 0x80000005, some 0x80000005] := by decide
/-- V31b to V31e, V36a, V36b. -/
theorem test_rdreg_reset : [answer (.rdreg 0x00) sReset, answer (.rdreg 0x01) sReset, answer (.rdreg 0x04) sReset,
    answer (.rdreg 0x31) sReset, answer (.rdreg 0x32) sReset, answer (.rdreg 0x14) sReset] =
    [some 0x0000FFFF, some 0, some 1, some 4, some 0x80000004, some 0x80000004] := by decide
/-- The recurring values of STAT in section 0. -/
theorem test_rdreg_stat : [statWord sReady, statWord sFull, statWord sTx, statWord (sAwait true 2 []),
    statWord (sSilent 0), statWord sPending, statWord (sFlight false .tx 2), statWord (sFlight false .exception 1)] =
    [0x0040, 0x0070, 0x0649, 0x044A, 0x044E, 0x0840, 0x1249, 0x104C] := by decide
/-- V39f, and the entry of section 0 with its CRC. -/
theorem test_sendA : after (fun t => (t.rsp, t.head, t.q[0]?)) (exec .sendA sReady) =
    some ([0x00000001], 1, some (entry true false)) := by decide +kernel
/-- R171's full ring; V38a. -/
theorem test_sendA_full : after id (exec .sendA sFull) = some { sFull with rsp := [0x00000000] } ∧
    answer .sendA sReset = some 0x80000006 := by decide
/-- V39g. -/
theorem test_sendS : after (fun t => (t.rsp, t.syncReq, t.sync)) (exec .sendS sReady) =
    some ([0x00000000], true, entry false false) ∧ answer .sendS sPending = some 0x80000007 := by decide +kernel
/-- V55: elapsed 1 of 2 answers 6, elapsed 2 answers 0. -/
theorem test_getState : answer .getState (sSilent 1) = some 6 ∧ answer .getState (sSilent 2) = some 0 := by decide
/-- V31f, section 0. -/
theorem test_isReady : answer .isReady sReset = some 0 ∧ answer .isReady sReady = some 1 := by decide
/-- V50d, V50e. -/
theorem test_silDef : after (fun t => t.sil) (exec .silDef { sReset with sil := [0, 0, 10, 0] }) = some [0, 0, 0, 0] := by
  decide
/-- V40, MS = 1: Idle to TX. -/
theorem test_poll_idle : after (fun t => (t.es, t.tail, t.tocnt, t.dir, t.txq)) (exec .poll sQueued) =
    some (.tx, 1, 2, true, [0x01, 0x03, 0x00, 0x00, 0x00, 0x0A, 0xC5, 0xCD]) := by decide
/-- V40, MS = 4: the exception reply of an asynchronous transaction is ignored, no record. -/
theorem test_poll_asyncTimeout : after (fun t => (t.es, t.cpl, t.silt0)) (exec .poll (sAwait true 1 excReply)) =
    some (.silent, [], 5) := by decide
/-- R142 with `01 83 02 C0 F1`. -/
theorem test_await_exception : after (fun t => (t.es, t.exc, t.exkind, t.rxf)) (exec .poll (sAwait false 1 excReply)) =
    some (.exception, 0x02, true, [0xC0, 0xF1]) := by decide
/-- R145, R88: the record of section 0's reply. -/
theorem test_await_reply : after (fun t => t.cpl.map completionWords) (exec .poll (sAwait true 2 reply)) =
    some [[0x20000011, 0x03010008, 0x00000007, 0x12020301, 0x0033B534]] := by decide +kernel
/-- R144: the asynchronous mismatch gives a CRCFAIL record. -/
theorem test_await_mismatch : after (fun t => t.cpl.map completionWords) (exec .poll (sAwait true 2 badReply)) =
    some [[0xE0000011, 0x03000000]] := by decide +kernel
/-- V81's kind: with a transaction in flight only RSTPEND is set; in Idle the ring is flushed. -/
theorem test_rstSoft : after (fun t => (t.rstPend, t.head)) (exec .rstSoft { sTx with head := 2 }) = some (true, 2) ∧
    after (fun t => (t.rstPend, t.head)) (exec .rstSoft sQueued) = some (false, 0) := by decide
/-- R253's example. -/
theorem test_rstAbort : after (fun t => (t.es, t.head, t.syncReq, t.cur.valid, t.cpl))
    (exec .rstAbort { sAwait true 2 [] with head := 2, tail := 1, syncReq := true }) =
    some (.idle, 1, false, false, []) := by decide

/-- R184: the grant, as in section 2.5's synchronous start. -/
theorem test_grant : after (fun t => (t.es, t.tocnt, t.txq.length, t.syncReq, t.syncBusy)) (grantStep sPending) =
    some (.tx, 2, 8, false, true) := by decide
theorem test_fetch_step : step (State.reset.withFetchWord 32 0x23000000) = exec .isReady State.reset := by rfl

/-! ### The assembler's notation (R94, R95, the words of sections 0 and 2) -/

theorem test_assemble : [assemble "WRREG" [.register .timeout, .number 50], assemble "CRC.UPD" [.number 1],
    assemble "CRC.APPEND" [.number 6], assemble "RDREG" [.register (.sil 3)], assemble "STB" [.number 256, .number 0]].map
      (Option.map encode) =
    [some 0x12040032, some 0x02010000, some 0x04000006, some 0x13130000, none] := by decide
theorem test_pseudo : (Pseudo.ldadu [0x01, 0x03]).expand.map encode = [0x10000001, 0x10010003] ∧
    (Pseudo.bind true).expand.map encode = [0x12020006] ∧
    (Pseudo.setmsg 0x11 3 true 8 7).expand.map encode = [0x12070011, 0x12080301, 0x12050008, 0x12060007] ∧
    (Pseudo.settings 1 50).expand.map encode = [0x12030001, 0x12040032, 0x12020001] := by decide
theorem test_directive : (Directive.txout none).events sTx = [.txOut] ∧
    Directive.disp.events sPending = [.dispGrant] ∧
    Directive.disp.events (sFlight false .gotReply 1) = [.dispComplete] := by decide

/-! ### Witnesses: for every statement with hypotheses, data that meet them together, each clause at its boundary -/

/-- A step goes on. -/
def runs (r : Res) : Bool := (after id r).isSome

theorem runs_iff (r : Res) : runs r = true ↔ ∃ t, r = .next t := by
  cases r <;> simp [runs, after]

theorem effective (s : State) (h : s.ms ≠ s.lastMs) (g : s.guard = false) : PollEffective s := ⟨h, g⟩

theorem witness_DecodeOfEncodeIsTheCommand : (Instr.stb 255 0xFF).WellFormed ∧ (Instr.crcBuf 65535).WellFormed ∧
    (Instr.wrreg 255 0xFFFF).WellFormed := by decide
theorem witness_EncodeOfDecodeIsTheWord : decode 0x10FF00FF = .instr (.stb 255 0xFF) := by decide
theorem witness_ReservedOpcodesAreRefusedWithReasonOne : opField 0x06000001 ∉ opcodes ∧ opField 0xFF000000 ∉ opcodes := by
  decide
theorem witness_NonzeroUnusedFieldsAreRefusedWithReasonTwo :
    opField 0x00000001 ∈ opcodes ∧ ∀ i, encode i ≠ 0x00000001 := by
  refine ⟨by decide, fun i h => ?_⟩
  have hw := congrArg vField h
  have ho := congrArg opField h
  rw [show vField 0x00000001 = 1 by decide] at hw
  rw [show opField 0x00000001 = 0 by decide] at ho
  cases i <;> simp [encode] at hw ho
theorem witness_StepRunsTheDecodedCommand : decode 0x23000000 = .instr .isReady ∧
    (0x23000000 < 2 ^ 32 ∧ decodeTableWord 32 0x23000000 = some .isReady) := by decide
theorem witness_EveryCommandAnswersOneResponseWord : runs (step (scheduled (.command 0x06000000) sReady)) = true ∧
    (((∀ w, Event.tick ≠ .command w) ∧ Event.tick ≠ .por) ∧ runs (step (scheduled .tick sReady)) = true) := by
  refine ⟨by decide, ⟨fun w => by simp, by simp⟩, by decide⟩
theorem witness_RefusedCommandsChangeNothing :
    after State.rsp (step (scheduled (.command 0x06000000) sReady)) = some (sReady.rsp ++ [0x80000001]) ∧
    (0x80000001 : Word32).getLsbD 31 = true := by decide
theorem witness_AppendedCrcLeavesResidueZero : (2 ≤ 2 ∧ 2 ≤ 8) ∧ crcValid frame 8 = true := by decide +kernel
/-- V11's first instance. -/
theorem witness_SingleBitErrorsFailValidation :
    (2 ≤ 8 ∧ 0 < 8) ∧ Memory.read [(1, 0x03), (5, 0x0A), (6, 0xC5), (7, 0xCD)] 0 = Memory.read frame 0 ^^^ (1#8 <<< 0) ∧
    (∀ j, j < 8 → j ≠ 0 → Memory.read [(1, 0x03), (5, 0x0A), (6, 0xC5), (7, 0xCD)] j = Memory.read frame j) ∧
    crcValid frame 8 = true := by decide +kernel
theorem witness_CrcBufRuns : (8 ≤ sReady.par.aduCap ∧ sReady.par.aduCap < 9) ∧
    (opField 0x03000008 = 0x03 ∧ opField 0x03010008 = 0x03) := by decide
theorem witness_CrcAppendRuns :
    (Memory.wf sReady.stg.msg.adu ∧ 6 + 2 ≤ sReady.par.aduCap ∧ 0 + 2 ≤ sReady.par.aduCap) ∧
    sReady.par.aduCap < 7 + 2 ∧ (opField 0x04000006 = 0x04 ∧ opField 0x04010006 = 0x04) := by decide
theorem witness_CrcCheckRuns : (2 ≤ 2 ∧ 2 ≤ sReady.par.aduCap ∧ 2 ≤ 8 ∧ 8 ≤ sReady.par.aduCap) ∧
    ((1 < 2 ∨ sReady.par.aduCap < 1) ∧ (9 < 2 ∨ sReady.par.aduCap < 9)) ∧ opField 0x05000002 = 0x05 := by decide
theorem witness_CrcUpdRuns : opField 0x02010000 = 0x02 ∧ opField 0x02010001 = 0x02 := by decide
theorem witness_StbRuns : (Memory.wf sReady.stg.msg.adu ∧ 7 < sReady.par.aduCap) ∧ sReady.par.aduCap ≤ 8 ∧
    (opField 0x100500FF = 0x10 ∧ opField 0x10050100 = 0x10) := by decide
theorem witness_LdbRuns : 7 < sReady.par.aduCap ∧ sReady.par.aduCap ≤ 8 ∧ opField 0x11050000 = 0x11 := by decide
theorem witness_bare_encodings : [opField 0x00000000, opField 0x01000000, opField 0x20000000, opField 0x21000000,
    opField 0x22000000, opField 0x23000000, opField 0x24000000, opField 0x30000000, opField 0x3E000000,
    opField 0x3F000000] = [0x00, 0x01, 0x20, 0x21, 0x22, 0x23, 0x24, 0x30, 0x3E, 0x3F] := by decide
theorem witness_RdregFollowsTheRegisterTable : sReady.par.Legal ∧ sReady.baud.toNat < sReady.par.nb ∧
    opField 0x13310000 = 0x13 := by decide
theorem witness_WrregCtrlIsSticky : (7 : Word).toNat < 8 ∧ 8 ≤ (8 : Word).toNat ∧
    (Event.command 0x12020000 ≠ .por ∧ runs (step (scheduled (.command 0x12020000) sReady)) = true ∧
      sReady.ctrl.sloaded = true ∧ sReady.ctrl.bound = true) := by decide
theorem witness_IsReadyRuns : Event.tick ≠ .por ∧ runs (step (scheduled .tick sReady)) = true ∧ IsReady sReady ∧
    opField 0x23000000 = 0x23 := by
  unfold IsReady; decide
theorem witness_WrregBaudAndTimeoutCheckTheirRange :
    ((3 : Word).toNat < sReady.par.nb ∧ sReady.par.nb ≤ (4 : Word).toNat) ∧
    (sReady.par.tmin ≤ (1 : Word).toNat ∧ (1000 : Word).toNat ≤ sReady.par.tmax) ∧
    ((0 : Word).toNat < sReady.par.tmin ∧ sReady.par.tmax < (1001 : Word).toNat) := by decide
theorem witness_WrregStagingAndSilenceTakeEveryValue : 3 < sReady.par.nb ∧ sReady.par.nb ≤ 16 := by decide
theorem witness_WrregToOtherRegistersIsRefused :
    sReady.par.nb ≤ 16 ∧ (∀ r ∈ [0x00, 0x01, 0x09, 0x14, 0x20, 0x32, 255],
      r ∉ [0x02, 0x03, 0x04, 0x05, 0x06, 0x07, 0x08] ∧ ¬(0x10 ≤ r ∧ r < 0x10 + sReady.par.nb)) ∧
    opField 0x12000000 = 0x12 := by decide
theorem witness_SilDefRestoresTheDefaultTable : sReady.sil.length = sReady.par.nb ∧
    sReady.par.baudTable[(3 : Word).toNat]? = some ⟨115200, 2⟩ ∧ (10 : Word) ≠ 0 ∧
    sReady.sil[(3 : Word).toNat]? = some 0 ∧ (sReady.sil.set 3 10)[(3 : Word).toNat]? = some 10 := by decide
theorem witness_GetStatePollsThenAnswersTheState : BlockInv (sSilent 0) := inv_sSilent
theorem witness_EachCommandWritesOnlyItsOwnState : Instr.sendA ∉ [Instr.poll, .getState, .rstSoft, .rstAbort] ∧
    runs (exec .sendA sReady) = true ∧
    (Instr.nop ≠ .sendA ∧ Instr.nop ≠ .sendS ∧ Instr.nop ≠ .silDef) := by decide
/-- Not ready; busy; each of the length conditions at its boundary. -/
theorem witness_SendsAreRefusedInOrder :
    (¬IsReady sReset ∧ IsReady sReady) ∧ sPending.syncReq = true ∧
    (¬StagedLengthsLegal { sReady with stg := ⟨⟨0, false, 1, 0, []⟩, 0⟩ } ∧
      ¬StagedLengthsLegal { sReady with stg := ⟨⟨0, false, 9, 0, []⟩, 0⟩ } ∧
      ¬StagedLengthsLegal { sReady with stg := ⟨⟨0, false, 8, 9, []⟩, 0⟩ } ∧
      ¬StagedLengthsLegal { sReady with stg := ⟨⟨0, true, 8, 1, []⟩, 0⟩ }) ∧
    (sReady.syncReq = false ∧ sReady.syncBusy = false) := by
  unfold IsReady StagedLengthsLegal; decide
theorem witness_SendAEnqueuesACopyOrReportsFull :
    (IsReady sFull ∧ StagedLengthsLegal sFull ∧ nextIndex sFull sFull.head = sFull.tail) ∧
    (IsReady sReady ∧ StagedLengthsLegal sReady ∧ nextIndex sReady sReady.head ≠ sReady.tail ∧
      sReady.head.toNat < sReady.q.length ∧ Memory.wf sReady.stg.msg.adu) := by
  unfold IsReady StagedLengthsLegal; decide
theorem witness_SendSLatchesTheRequest : IsReady sReady ∧ sReady.syncReq = false ∧ sReady.syncBusy = false ∧
    StagedLengthsLegal sReady ∧ Memory.wf sReady.stg.msg.adu := by
  unfold IsReady StagedLengthsLegal; decide
theorem witness_RingIsAStrictFifo : BlockInv sQueued ∧ runs (step (scheduled (.command 0x30000000) sQueued)) = true :=
  ⟨inv_sQueued, by decide⟩
/-- A first poll that is a POLL, one that is a GETSTATE, and a step between two polls. -/
theorem witness_OnePollPerTickIsEffective : (sReset.ms = sReset.lastMs ∨ sReset.guard = true) ∧
    runs (exec .poll sQueued) = true ∧ PollEffective sQueued ∧
    (IsPoll (.command 0x22000000) ∧ runs (step (scheduled (.command 0x22000000) sQueued)) = true) ∧
    (Event.rxIn 0x01 ≠ .tick ∧ runs (step (scheduled (.rxIn 0x01) sReady)) = true ∧ sReady.lastMs = sReady.ms) ∧
    runs (step (scheduled .por sQueued)) = true :=
  ⟨by decide, by decide, effective _ (by decide) rfl, ⟨⟨0x22000000, rfl, .inr (by decide)⟩, by decide⟩, by decide,
    by decide⟩
theorem witness_IdlePollStartsTheNextEntryOrOnlyUsesTheTick :
    (PollEffective sQueued ∧ sQueued.es = .idle ∧ sQueued.cur.valid = false ∧ sQueued.syncReq = false ∧
      sQueued.head ≠ sQueued.tail ∧ sQueued.q[sQueued.tail.toNat]? = some (entry true false) ∧
      (entry true false).msg.txLength.toNat ≤ sQueued.par.aduCap) ∧
    (PollEffective sPending ∧ sPending.es = .idle ∧ sPending.syncReq = true) ∧
    (PollEffective { sReady with ms := 1 } ∧ sReady.es = .idle ∧ sReady.head = sReady.tail) ∧
    (PollEffective { sQueued with cur := ⟨true, entry true true⟩ } ∧ sQueued.es = .idle) :=
  ⟨⟨effective _ (by decide) rfl, by decide⟩, ⟨effective _ (by decide) rfl, by decide⟩,
    ⟨effective _ (by decide) rfl, by decide⟩, effective _ (by decide) rfl, by decide⟩
theorem witness_TxPollWaitsThenTurnsTheLineRound : PollEffective sTx ∧ sTx.es = .tx ∧ sTx.txq ≠ [] ∧
    (sFlight true .tx 2).txq = [] := ⟨effective _ (by decide) rfl, by decide⟩
/-- Six of the seven bytes. -/
theorem witness_AwaitPollCountsDown : PollEffective (sAwait true 2 (reply.take 6)) ∧
    (sAwait true 2 (reply.take 6)).es = .awaitReply ∧ (sAwait true 2 (reply.take 6)).tocnt ≠ 1 ∧
    (sAwait true 2 (reply.take 6)).rxf.length < (sAwait true 2 []).cur.entry.msg.rxLength.toNat :=
  ⟨effective _ (by decide) rfl, by decide⟩
theorem witness_AsyncTimeoutIsSilent : PollEffective (sAwait true 1 reply) ∧ (sAwait true 1 reply).es = .awaitReply ∧
    (sAwait true 1 reply).tocnt = 1 ∧ (sAwait true 1 reply).cur.entry.async = true :=
  ⟨effective _ (by decide) rfl, by decide⟩
/-- Two bytes, and three, with and without the exception bit. -/
theorem witness_SyncTimeoutInspectsThreeBytes :
    PollEffective (sAwait false 1 excReply) ∧ (sAwait false 1 excReply).es = .awaitReply ∧
    (sAwait false 1 excReply).tocnt = 1 ∧ (sAwait false 1 excReply).cur.entry.async = false ∧
    (sAwait false 1 (excReply.take 2)).rxf.length < 3 ∧
    ((sAwait false 1 (excReply.take 3)).rxf = 0x01 :: 0x83 :: 0x02 :: [] ∧ (0x83 : Byte) &&& 0x80 ≠ 0) ∧
    ((sAwait false 1 reply).rxf = 0x01 :: 0x03 :: 0x02 :: [0x12, 0x34, 0xB5, 0x33] ∧ (0x03 : Byte) &&& 0x80 = 0) ∧
    3 ≤ (sAwait false 1 []).par.aduCap ∧ Memory.wf (sAwait false 1 []).cur.entry.msg.adu :=
  ⟨effective _ (by decide) rfl, by decide⟩
/-- A valid reply, an invalid one, and a zero-length reply without a check. -/
theorem witness_AwaitPollCapturesAndClassifies :
    PollEffective (sAwait true 2 (reply ++ [0xEE])) ∧ (sAwait true 2 (reply ++ [0xEE])).es = .awaitReply ∧
    (sAwait true 2 (reply ++ [0xEE])).tocnt ≠ 1 ∧ (sAwait true 2 (reply ++ [0xEE])).rxf = reply ++ [0xEE] ∧
    (reply.length = (sAwait true 2 []).cur.entry.msg.rxLength.toNat ∧ reply.length ≤ pSmall.aduCap ∧
      2 ≤ reply.length ∧ Memory.wf (sAwait true 2 []).cur.entry.msg.adu) ∧
    (ReplyAccepted (sAwait true 2 []) reply ∧ ¬ReplyAccepted (sAwait true 2 []) badReply) := by
  refine ⟨effective _ (by decide) rfl, by decide, by decide, by decide, by decide, ?_⟩
  unfold ReplyAccepted FrameValid
  decide +kernel
/-- The three states; an exception with EXKIND = 0 and CODE_NONE, and one with the device's code. -/
theorem witness_TerminalPollDeliversTheRecord : (∀ e ∈ [EngineState.gotReply, .timeout, .exception],
    PollEffective (sFlight false e 1) ∧ (sFlight false e 1).es = e) ∧
    (sFlight false .exception 1).exkind = false ∧ (sFlight false .exception 1).exc = 0x00 ∧
    PollEffective { sFlight false .exception 1 with exkind := true, exc := 0x02 } :=
  ⟨fun _ _ => ⟨effective _ (show (5 : Word32) ≠ 4 by decide) rfl, rfl⟩, rfl, rfl, effective _ (by decide) rfl⟩
/-- One tick short of the silence of 2, and exactly at it. -/
theorem witness_SilentPollHoldsForTheSilence : PollEffective (sSilent 1) ∧ (sSilent 1).es = .silent ∧
    (sSilent 1).baud.toNat < (sSilent 1).par.nb ∧
    ((sSilent 1).ms.toNat + 2 ^ 32 - (sSilent 1).silt0.toNat) % 2 ^ 32 < silenceNow (sSilent 1) ∧
    silenceNow (sSilent 2) ≤ ((sSilent 2).ms.toNat + 2 ^ 32 - (sSilent 2).silt0.toNat) % 2 ^ 32 :=
  ⟨effective _ (by decide) rfl, by decide⟩
theorem witness_EngineStateFollowsTheTransitionTable : BlockInv (sAwait true 2 reply) ∧
    runs (step (scheduled (.command 0x30000000) (sAwait true 2 reply))) = true := ⟨inv_sAwait_async, by decide +kernel⟩
theorem witness_EngineStepsLeaveTheHostsStateAlone : IsPoll (.command 0x30000000) ∧
    runs (step (scheduled (.command 0x30000000) sQueued)) = true ∧
    runs (step (scheduled .dispGrant sPending)) = true ∧
    runs (step (scheduled .dispComplete (sFlight false .timeout 0))) = true ∧
    runs (step (scheduled .txOut sTx)) = true ∧ runs (step (scheduled (.rxIn 0x01) sTx)) = true :=
  ⟨⟨0x30000000, rfl, .inl (by decide)⟩, by decide⟩
theorem witness_TickAndLineSteps : sReady.txq = [] ∧ sTx.txq = 0xCD :: [] ∧ Event.txOut ≠ .tick ∧ Event.txOut ≠ .por ∧
    runs (step (scheduled .txOut sTx)) = true ∧ Event.rxIn 0x01 ≠ .txOut := by decide
theorem witness_GrantStartsTheBlockingRequest : (sPending.syncReq = true ∧ sPending.es = .idle ∧
    sPending.cur.valid = false ∧ sPending.sync.msg.txLength.toNat ≤ sPending.par.aduCap) ∧
    sReady.syncReq = false ∧ sTx.es ≠ .idle ∧ sTx.cur.valid = true := by decide
theorem witness_CompleteDeliversAsThePollWould :
    (BlockInv (sFlight false .gotReply 1) ∧ BlockInv (sFlight false .timeout 0) ∧ BlockInv (sFlight false .exception 1)) ∧
    PollEffective (sFlight false .gotReply 1) ∧
    (sReady.cur.valid = false ∧ sTx.cur.entry.async = true ∧ (sAwait false 1 []).es = .awaitReply) :=
  ⟨⟨inv_sGotReply, inv_sTimeout, inv_sException⟩, effective _ (by decide) rfl, by decide⟩
theorem witness_BlockingCallReturnsWithItsRecord : BlockInv sPending ∧ Event.dispGrant ≠ .por ∧
    ¬IsCommand .rstAbort .dispGrant ∧ runs (step (scheduled .dispGrant sPending)) = true ∧ sPending.syncReq = true ∧
    sPending.syncBusy = false ∧
    (BlockInv (sFlight false .timeout 0) ∧ (sFlight false .timeout 0).syncBusy = true ∧
      runs (step (scheduled .dispComplete (sFlight false .timeout 0))) = true) :=
  ⟨inv_sPending, by decide, (by rintro ⟨w, h, _⟩; cases h), by decide, by decide, by decide, inv_sTimeout, by decide⟩
theorem witness_EachTransactionEndsWithAtMostOneRecord : BlockInv (sFlight false .timeout 0) ∧
    Event.dispComplete ≠ .por ∧ runs (step (scheduled .dispComplete (sFlight false .timeout 0))) = true ∧
    after State.es (step (scheduled .dispComplete (sFlight false .timeout 0))) = some .silent :=
  ⟨inv_sTimeout, by decide⟩
/-- Seven bytes: the last word has one unused byte. -/
theorem witness_RecordsSerialiseByTheLayout :
    completionWords ⟨.devExc, false, 0x02, 0x11, 3, none⟩ = [0x80020011, 0x03000000] ∧
    completionWords ⟨.reply, true, 0, 0x11, 3, some ⟨0x11, true, 8, 7, frame⟩⟩ =
      [0x20000011, 0x03010008, 0x00000007, 0x00000301, 0x00C50A00] := by decide
theorem witness_RstSoftRuns : (sQueued.es = .idle ∧ sQueued.cur.valid = false) ∧ (sTx.es ≠ .idle ∧ sTx.cur.valid = true) := by
  decide
theorem witness_PowerOnResetLeavesTheTableOfValues : Params.example0.Legal ∧ sTx.par.Legal := by decide
theorem witness_InvariantHoldsAtReset : pSmall.Legal := by decide
theorem witness_EveryStepKeepsTheInvariant : BlockInv sQueued ∧
    runs (step { sQueued with schedule := [.command 0x30000000] }) = true := ⟨inv_sQueued, by decide⟩
theorem witness_NoStepEverStops : BlockInv (sAwait false 1 excReply) := inv_sAwait_sync
/-- Garbage in a slot that holds no entry. -/
theorem witness_UnspecifiedContentsAreNeverRead :
    BlockInv { sQueued with q := sQueued.q.set 2 (entry false true) } ∧
    AgreeWhereRead sQueued { sQueued with q := sQueued.q.set 2 (entry false true) } ∧
    runs (step sQueued) = true := by
  refine ⟨by constructor <;> decide, ⟨rfl, by decide, fun h => absurd h (by decide), rfl, fun _ => rfl⟩, by decide⟩
/-- A poll that counts, a byte that arrives; and two ticks with a byte, a command and an early poll among their steps. -/
theorem witness_AwaitReplyEndsWithinItsCountdown :
    (BlockInv (sAwait true 2 reply) ∧ (sAwait true 2 reply).es = .awaitReply ∧ IsPoll (.command 0x30000000) ∧
      PollEffective (sAwait true 2 reply) ∧ runs (step (scheduled (.command 0x30000000) (sAwait true 2 reply))) = true) ∧
    (runs (step (scheduled (.rxIn 0x01) (sAwait true 2 reply))) = true ∧ ¬IsPoll (.rxIn 0x01) ∧ Event.rxIn 0x01 ≠ .por ∧
      ¬IsCommand .rstAbort (.rxIn 0x01)) ∧
    BlockInv { sAwait true 2 [] with
      lastMs := 5
      schedule := [.tick, .rxIn 0x01, .command 0x30000000] ++
        [.tick, .command 0x22000000, .command 0x00000000, .txOut, .command 0x30000000] } ∧
    (PolledTick [.tick, .rxIn 0x01, .command 0x30000000] ∧
      PolledTick [.tick, .command 0x22000000, .command 0x00000000, .txOut, .command 0x30000000]) := by
  have hp : IsPoll (.command 0x30000000) := ⟨_, rfl, .inl (by decide)⟩
  have hn : ∀ e ∈ [Event.rxIn 0x01, .command 0x22000000, .command 0x00000000, .txOut],
      e ≠ .tick ∧ e ≠ .por ∧ ¬IsCommand .rstAbort e := by
    have hd : decode 0x22000000#32 = .instr .getState ∧ decode 0x00000000#32 = .instr .nop := by decide
    simp [IsCommand, hd]
  refine ⟨⟨inv_sAwait_async, rfl, hp, effective _ (by decide) rfl, by decide +kernel⟩,
    ⟨by decide, by simp [IsPoll], by decide, by simp [IsCommand]⟩, by constructor <;> decide,
    ⟨[.rxIn 0x01], _, rfl, hp, fun e he => hn e (by simp_all)⟩,
    ⟨[.command 0x22000000, .command 0x00000000, .txOut], _, rfl, hp, fun e he => hn e ?_⟩⟩
  simp only [List.mem_cons] at he ⊢
  exact .inr he
/-- One tick and polls during a silence of 2 ms. -/
theorem witness_NothingIsSentDuringTheSilence :
    BlockInv { sSilent 0 with schedule := [.tick, .command 0x30000000] } ∧
    ((sSilent 0).es = .silent ∧ (sSilent 0).silt0 = (sSilent 0).ms) ∧
    (∀ e ∈ [Event.tick, .command 0x30000000], e ≠ .por ∧ ¬IsCommand .rstAbort e ∧ ¬ChangesTiming e) ∧
    ([Event.tick, .command 0x30000000].filter (· == .tick)).length < silenceNow (sSilent 0) ∧
    after State.es (Sys2Proof.core.run 2 { sSilent 0 with schedule := [.tick, .command 0x30000000] }) = some .silent := by
  have hd : decode 805306368#32 = .instr .poll := by decide
  refine ⟨by constructor <;> decide, by decide, ?_, by decide, by decide⟩
  intro e he
  simp only [List.mem_cons, List.not_mem_nil, or_false] at he
  rcases he with rfl | rfl
  · refine ⟨by simp, ?_, ?_⟩ <;> simp [IsCommand, ChangesTiming]
  · refine ⟨by simp, ?_, ?_⟩ <;> simp [IsCommand, ChangesTiming, hd]

end Sys2Proof.Tests
end

section
/-! SUPPORT. Proofs about the state: the reset values (R55, R250), what each agent's step can do (R10, R218), that every
step keeps the invariant (R54), what the engine leaves alone (R157), that CTRL is sticky (R38). -/

namespace Sys2Proof

open Sys2Proof.Machine Sys2Proof.Claims

/-! ### One scheduled step -/

theorem step_scheduled (e : Event) (s : State) : step (scheduled e s) = runEvent e s := rfl

/-- A step is the hold or the head event's own step from the state without it. -/
theorem step_cases {s t : State} (h : step s = .next t) :
    (s.schedule = [] ∧ t = s) ∨
    ∃ e rest, s.schedule = e :: rest ∧ runEvent e { s with schedule := rest } = .next t := by
  unfold step at h
  split at h
  · cases h; exact .inl ⟨‹_›, rfl⟩
  · exact .inr ⟨_, _, ‹_›, h⟩

/-! ### Power-on reset (R55, R250) -/

theorem toNat_timeout_resetWith {p : Params} (h : p.Legal) : (State.resetWith p).timeout.toNat = p.tmin := by
  obtain ⟨-, -, -, -, -, hmin, -⟩ := h
  exact Nat.mod_eq_of_lt (by omega)

theorem atReset_resetWith {p : Params} (h : p.Legal) : AtReset (State.resetWith p) :=
  ⟨rfl, rfl, ⟨rfl, rfl, rfl, rfl, rfl, fun _ => rfl⟩, ⟨rfl, rfl, rfl, rfl, rfl⟩, ⟨rfl, rfl, rfl, rfl, rfl⟩,
    ⟨rfl, rfl, rfl, rfl⟩, ⟨rfl, rfl, toNat_timeout_resetWith h, rfl⟩, ⟨rfl, rfl, rfl, rfl⟩, ⟨rfl, rfl, rfl⟩⟩

/-- Settles O53: the reset state field by field; a power-on reset leaves it for the block's own parameters. -/
theorem powerOnResetLeavesTheTableOfValues : Obligations.PowerOnResetLeavesTheTableOfValues :=
  ⟨fun _ h => ⟨atReset_resetWith h, rfl⟩, fun s h => ⟨porStep s, step_scheduled .por s, atReset_resetWith h, rfl⟩⟩

theorem aduGood_nil (cap : Nat) : AduGood cap [] := ⟨Memory.wf_nil, Memory.within_nil cap⟩

/-- After reset the ring is empty, no packet is in flight, and every buffer is the empty one. -/
theorem inv_resetWith {p : Params} (h : p.Legal) : BlockInv (State.resetWith p) := by
  have htimeout := toNat_timeout_resetWith h
  have hlegal := h
  obtain ⟨⟨hqn, -⟩, -, ⟨hnb, -⟩, -, -, hmin, hmax, -⟩ := h
  exact {
    parLegal := hlegal
    qLength := List.length_replicate
    silLength := List.length_replicate
    stgAdu := aduGood_nil _
    qAdu := fun e he => by rw [List.eq_of_mem_replicate he]; exact aduGood_nil _
    syncAdu := aduGood_nil _
    curAdu := aduGood_nil _
    idleIff := by simp [State.resetWith]
    terminalSync := by simp [State.resetWith, terminalState]
    busyInFlight := by simp [State.resetWith]
    inFlightBusy := by simp [State.resetWith]
    requestNotBusy := fun _ => rfl
    countdownArmed := by simp [State.resetWith]
    guardClear := rfl
    headInRing := Nat.lt_of_lt_of_le Nat.zero_lt_two hqn
    tailInRing := Nat.lt_of_lt_of_le Nat.zero_lt_two hqn
    baudInTable := hnb
    timeoutInRange := by rw [htimeout]; exact ⟨le_rfl, hmin.trans hmax⟩
    curLegal := by simp [State.resetWith]
    syncLegal := by simp [State.resetWith]
    syncSync := rfl
    waitingLegal := by rw [waiting_flushed _ rfl]; simp
    readyFirst := by simp [State.resetWith]
    direnBound := by simp [State.resetWith]
    dirLevel := rfl
    pendingInFlight := by simp [State.resetWith]
    excCode := fun _ => rfl
    tbaudIsBaud := .inr ⟨rfl, rfl⟩ }

/-- Settles O54: every field of the invariant at reset, then the example parameters, which are legal. -/
theorem invariantHoldsAtReset : Obligations.InvariantHoldsAtReset :=
  ⟨fun _ h => inv_resetWith h, inv_resetWith (by decide)⟩

/-! ### What a command other than a poll writes (R218) -/

/-- What RST.ABORT leaves before its answer (R253). -/
def aborted (s : State) : State :=
  setDirection false
    { s with
      head := s.tail
      cur := { s.cur with valid := false }
      es := .idle
      syncReq := false
      syncBusy := false
      rstPend := false
      tocnt := 0 }

theorem execRstAbort_eq (s : State) : execRstAbort s = accept 0 (aborted s) := rfl

/-- The writes of the commands other than POLL and GETSTATE, each with the test that allowed it. -/
inductive HostWrite (s : State) : State → Prop where
  /-- Refusals and the commands that only answer. -/
  | nothing : HostWrite s s
  /-- The CRC commands (R114 to R116, R118). -/
  | crc (c : Word) (ok : Bool) : HostWrite s { s with crc := c, crcOk := ok }
  /-- CRC.APPEND, STB and the staging registers (R117, R210, R213). -/
  | staging (c : Word) (g : Staging) (h : AduGood s.par.aduCap s.stg.msg.adu → AduGood s.par.aduCap g.msg.adu) :
      HostWrite s { s with crc := c, stg := g }
  /-- CTRL (R38). -/
  | ctrl (v : Word) : HostWrite s { s with ctrl := ctrlWritten s.ctrl v }
  /-- BAUD (R198). -/
  | baud (v : Word) (h : v.toNat < s.par.nb) : HostWrite s (setBaudRate v { s with baud := v })
  /-- TIMEOUT (R199). -/
  | timeout (v : Word) (h : s.par.tmin ≤ v.toNat ∧ v.toNat ≤ s.par.tmax) : HostWrite s { s with timeout := v }
  /-- SIL and SILDEF (R200, R201). -/
  | silence (l : List Word) (h : l.length = s.sil.length) : HostWrite s { s with sil := l }
  /-- SEND.A into a ring that is not full (R171). -/
  | enqueued (h : admission false s = none) (hfull : ringFull s = false) : HostWrite s (enqueue (stagedEntry true s) s)
  /-- SEND.S (R181). -/
  | requested (h : admission true s = none) : HostWrite s { s with sync := stagedEntry false s, syncReq := true }
  /-- RST.SOFT with nothing in flight (R254). -/
  | flushed : HostWrite s { s with head := s.tail }
  /-- RST.SOFT with a packet in flight (R254). -/
  | resetPending (h : ¬(s.es = .idle ∧ s.cur.valid = false)) : HostWrite s { s with rstPend := true }
  /-- RST.ABORT (R253). -/
  | aborted : HostWrite s (aborted s)

/-- The result is a write of `HostWrite`, then one response. -/
def WritesThenAnswers (s : State) (r : Res) : Prop :=
  ∀ t, r = .next t → ∃ u err v, HostWrite s u ∧ t = respond err v u

theorem writesThenAnswers_accept {s u : State} (v : Word) (h : HostWrite s u) : WritesThenAnswers s (accept v u) :=
  fun _ ht => ⟨u, false, v, h, by cases ht; rfl⟩

theorem writesThenAnswers_refuse (s : State) (r : Reason) : WritesThenAnswers s (refuse r s) :=
  fun _ ht => ⟨s, true, reasonCode r, .nothing, by cases ht; rfl⟩

theorem writesThenAnswers_fault (s : State) (e : Fault) : WritesThenAnswers s (.fault e) := fun _ ht => by cases ht

/-- Every write of a register is one of the writes (R213). -/
theorem hostWrite_of_writeReg {r : Reg} {v : Word} {s t : State} (h : writeReg r v s = .ok t) : HostWrite s t := by
  cases r with
  | ctrl =>
    simp only [writeReg, writeCtrl] at h
    split at h <;> cases h
    exact .ctrl v
  | baud =>
    simp only [writeReg, writeBaud] at h
    split at h <;> cases h
    exact .baud v ‹_›
  | timeout =>
    simp only [writeReg, writeTimeout] at h
    split at h <;> cases h
    exact .timeout v ‹_›
  | txlen | rxlen | ctx | mflags => cases h; exact .staging s.crc _ id
  | sil k => cases h; exact .silence _ List.length_set
  | crc | stat | head | tail | tocnt | msl | msh | silt0l | silt0h | dsil k | exc | silact => cases h

theorem exec_writes (i : Instr) (s : State) (hp : i ≠ .poll) (hg : i ≠ .getState) : WritesThenAnswers s (exec i s) := by
  cases i with
  | nop => exact writesThenAnswers_accept _ .nothing
  | crcInit => exact writesThenAnswers_accept _ (.crc _ s.crcOk)
  | crcUpd byte => exact writesThenAnswers_accept _ (.crc _ s.crcOk)
  | crcBuf len =>
    simp only [exec, execCrcBuf]
    split
    · exact writesThenAnswers_refuse _ _
    · exact writesThenAnswers_accept _ (.crc _ s.crcOk)
  | crcAppend len =>
    simp only [exec, execCrcAppend]
    split
    · exact writesThenAnswers_refuse _ _
    · exact writesThenAnswers_accept _
        (.staging _ _ fun h => ⟨crcAppend_wf _ _ h.1, crcAppend_within _ _ _ h.2 (by omega)⟩)
  | crcCheck len =>
    simp only [exec, execCrcCheck]
    split
    · exact writesThenAnswers_refuse _ _
    · exact writesThenAnswers_accept _ (.crc _ _)
  | stb index byte =>
    simp only [exec, execStb]
    split
    · exact writesThenAnswers_refuse _ _
    · exact writesThenAnswers_accept _
        (.staging s.crc _ fun h => ⟨Memory.write_wf _ _ _ h.1, Memory.write_within _ _ _ _ h.2 (by omega)⟩)
  | ldb index =>
    simp only [exec, execLdb]
    split
    · exact writesThenAnswers_refuse _ _
    · exact writesThenAnswers_accept _ .nothing
  | wrreg reg value =>
    simp only [exec, execWrreg]
    split
    · exact writesThenAnswers_refuse _ _
    · split
      · exact writesThenAnswers_refuse _ _
      · exact writesThenAnswers_accept _ (hostWrite_of_writeReg ‹_›)
  | rdreg reg =>
    simp only [exec, execRdreg]
    split
    · exact writesThenAnswers_refuse _ _
    · split
      · exact writesThenAnswers_fault _ _
      · exact writesThenAnswers_accept _ .nothing
  | sendA =>
    simp only [exec, execSendA]
    split
    · exact writesThenAnswers_refuse _ _
    · split
      · exact writesThenAnswers_accept _ .nothing
      · split
        · exact writesThenAnswers_fault _ _
        · exact writesThenAnswers_accept _ (.enqueued ‹_› (by simpa using ‹¬ringFull s = true›))
  | sendS =>
    simp only [exec, execSendS]
    split
    · exact writesThenAnswers_refuse _ _
    · exact writesThenAnswers_accept _ (.requested ‹_›)
  | isReady => exact writesThenAnswers_accept _ .nothing
  | silDef => exact writesThenAnswers_accept _ (.silence _ List.length_replicate)
  | rstSoft =>
    simp only [exec, execRstSoft]
    split
    · exact writesThenAnswers_accept _ .flushed
    · exact writesThenAnswers_accept _ (.resetPending ‹_›)
  | rstAbort => exact writesThenAnswers_accept _ .aborted
  | poll => exact absurd rfl hp
  | getState => exact absurd rfl hg

/-! ### One step of an agent, case by case (R10) -/

/-- A command word is refused, a poll with its answer, or a write with its answer (R80, R90, R132). -/
theorem runCommand_cases {w : Word32} {s t : State} (h : runCommand w s = .next t) :
    (∃ u v, pollOnce s = .next u ∧ t = respond false v u) ∨ ∃ u err v, HostWrite s u ∧ t = respond err v u := by
  unfold runCommand at h
  split at h
  · rename_i i _
    by_cases hp : i = .poll
    · subst hp
      obtain ⟨u, hu, ht⟩ := andThen_eq_next h
      exact .inl ⟨u, 0, hu, by cases ht; rfl⟩
    · by_cases hg : i = .getState
      · subst hg
        obtain ⟨u, hu, ht⟩ := andThen_eq_next h
        exact .inl ⟨u, _, hu, by cases ht; rfl⟩
      · exact .inr (exec_writes i s hp hg t h)
  · exact .inr (writesThenAnswers_refuse s _ t h)

/-- The blocking request in the packet slot, before its transmission starts (R184). -/
def granted (s : State) : State :=
  { s with
    sync := { s.sync with sent := true }
    syncReq := false
    syncBusy := true
    cur := ⟨true, { s.sync with async := false, sent := true }⟩ }

theorem grantStep_eq (s : State) : grantStep s = if grantEnabled s then startTx (granted s) else .next s := rfl

theorem grantEnabled_iff (s : State) :
    grantEnabled s = true ↔ s.syncReq = true ∧ s.es = .idle ∧ s.cur.valid = false := by
  simp [grantEnabled, and_assoc]

/-- DISP.GRANT does nothing, or the request becomes the packet in flight (R184). -/
theorem grantStep_cases {s t : State} (h : grantStep s = .next t) :
    t = s ∨
    (s.syncReq = true ∧ s.es = .idle ∧ s.cur.valid = false ∧ t = started (granted s)) := by
  rw [grantStep_eq] at h
  split at h
  · obtain ⟨hr, hes, hv⟩ := (grantEnabled_iff s).1 ‹_›
    exact .inr ⟨hr, hes, hv, (startTx_eq_next h).2⟩
  · cases h; exact .inl rfl

/-- DISP.COMPLETE does nothing, or delivers a record from a terminal state (R186). -/
theorem completeStep_cases (s : State) :
    completeStep s = s ∨ (terminalState s.es = true ∧ ∃ k c m, completeStep s = deliver k c m s) := by
  unfold completeStep
  split
  · split
    · rename_i hes; exact .inr ⟨by simp [hes, terminalState], _, _, _, rfl⟩
    · rename_i hes; exact .inr ⟨by simp [hes, terminalState], _, _, _, rfl⟩
    · rename_i hes; exact .inr ⟨by simp [hes, terminalState], _, _, _, rfl⟩
    all_goals exact .inl rfl
  · exact .inl rfl

/-- LINE.TXOUT takes at most one byte from TXQ to the line (R51). -/
theorem txOutStep_eq (s : State) : ∃ q l, txOutStep s = { s with txq := q, lineOut := l } := by
  unfold txOutStep
  split
  · exact ⟨s.txq, s.lineOut, rfl⟩
  · exact ⟨_, _, rfl⟩

/-! ### Every step keeps the invariant (R54) -/

theorem inv_respond {s : State} (h : BlockInv s) (err : Bool) (v : Word) : BlockInv (respond err v s) :=
  inv_free h _ _ _ _ _ _ _ _ _ _ _

theorem inv_idle_of_not_ready {s : State} (h : BlockInv s) (hr : ready s = false) : s.es = .idle := by
  refine h.idleIff.2 (Bool.eq_false_iff.2 fun hv => ?_)
  simp [h.readyFirst (.inr (.inr hv))] at hr

/-- A write of CTRL never takes readiness away (R38). -/
theorem ready_ctrlWritten {s : State} (v : Word) (h : ready s = true) :
    ready { s with ctrl := ctrlWritten s.ctrl v } = true := by
  simp only [ready, Bool.and_eq_true, ctrlWritten] at h ⊢
  simp [h]

/-- DIREN changes only in a write that binds, when nothing can be in flight yet (R38, R244). -/
theorem inv_ctrlWritten {s : State} (h : BlockInv s) (v : Word) :
    BlockInv { s with ctrl := ctrlWritten s.ctrl v } :=
  { h with
    readyFirst := fun hw => ready_ctrlWritten v (h.readyFirst hw)
    direnBound := by
      have hbound := h.direnBound
      cases hb : s.ctrl.bound <;> cases hv : v.getLsbD 1 <;> simp_all [ctrlWritten]
    dirLevel := by
      cases hb : s.ctrl.bound with
      | true => simpa [ctrlWritten, hb] using h.dirLevel
      | false =>
        have hes := inv_idle_of_not_ready h (by simp [ready, hb])
        simp [hes, inv_dir_low h (by simp [hes])] }

/-- The CRC goes into the last two bytes of a message of legal length (R170, R172). -/
theorem aduGood_stagedEntry {s : State} (h : BlockInv s) (async : Bool)
    (hl : Message.lengthsLegal s.par.aduCap s.stg.msg) : AduGood s.par.aduCap (stagedEntry async s).msg.adu := by
  obtain ⟨h2, hcap, -⟩ := hl
  exact ⟨crcAppend_wf _ _ h.stgAdu.1, crcAppend_within _ _ _ h.stgAdu.2 (by omega)⟩

theorem inv_enqueue {s : State} (h : BlockInv s) (hadm : admission false s = none) (hfull : ringFull s = false) :
    BlockInv (enqueue (stagedEntry true s) s) := by
  obtain ⟨hq0, hq1, -⟩ := inv_bounds h
  obtain ⟨hready, -, hlegal⟩ := (admission_eq_none false s).1 hadm
  have hwait := waiting_enqueue s (stagedEntry true s) h.qLength hq1 h.headInRing h.tailInRing hfull
  exact { h with
    qLength := by simpa [enqueue] using h.qLength
    qAdu := fun e he => by
      rcases List.mem_or_eq_of_mem_set he with he | rfl
      · exact h.qAdu e he
      · exact aduGood_stagedEntry h true hlegal
    headInRing := by simp only [enqueue, toNat_ringNext s s.head hq0 hq1]; exact Nat.mod_lt _ hq0
    waitingLegal := fun e he => by
      rw [hwait, List.mem_append, List.mem_singleton] at he
      rcases he with he | rfl
      · exact h.waitingLegal e he
      · exact ⟨hlegal, rfl, rfl⟩
    readyFirst := fun _ => hready }

theorem inv_requested {s : State} (h : BlockInv s) (hadm : admission true s = none) :
    BlockInv { s with sync := stagedEntry false s, syncReq := true } := by
  obtain ⟨hready, hfree, hlegal⟩ := (admission_eq_none true s).1 hadm
  exact { h with
    syncAdu := aduGood_stagedEntry h false hlegal
    requestNotBusy := fun _ => (hfree rfl).2
    syncLegal := fun _ => hlegal
    syncSync := rfl
    readyFirst := fun _ => hready }

theorem inv_flushed {s : State} (h : BlockInv s) : BlockInv { s with head := s.tail } :=
  { h with
    headInRing := h.tailInRing
    waitingLegal := by rw [waiting_flushed _ rfl]; simp
    readyFirst := fun hw => h.readyFirst (.inr (hw.resolve_left (absurd rfl))) }

theorem inv_resetPending {s : State} (h : BlockInv s) (hf : ¬(s.es = .idle ∧ s.cur.valid = false)) :
    BlockInv { s with rstPend := true } :=
  { h with
    pendingInFlight := fun _ => by
      by_contra hv
      have hv : s.cur.valid = false := by simpa using hv
      exact hf ⟨h.idleIff.2 hv, hv⟩ }

/-- The abort leaves the empty ring, no request, no packet, and the line released (R253). -/
theorem inv_aborted {s : State} (h : BlockInv s) : BlockInv (aborted s) :=
  { h with
    idleIff := by simp [aborted]
    terminalSync := by simp [aborted, terminalState]
    busyInFlight := by simp [aborted]
    inFlightBusy := by simp [aborted]
    requestNotBusy := by simp [aborted]
    countdownArmed := by simp [aborted]
    headInRing := h.tailInRing
    curLegal := by simp [aborted]
    syncLegal := by simp [aborted]
    waitingLegal := by rw [waiting_flushed _ rfl]; simp
    readyFirst := by simp [aborted]
    dirLevel := by
      have hdir := h.dirLevel
      cases hd : s.ctrl.diren <;> simp_all [aborted, setDirection]
    pendingInFlight := by simp [aborted] }

theorem inv_hostWrite {s t : State} (h : BlockInv s) (hw : HostWrite s t) : BlockInv t := by
  cases hw with
  | nothing => exact h
  | crc c ok => exact inv_free h _ _ _ _ _ _ _ _ _ _ _
  | staging c g hg => exact { h with stgAdu := hg h.stgAdu }
  | ctrl v => exact inv_ctrlWritten h v
  | baud v hv => exact { h with baudInTable := hv, tbaudIsBaud := .inl rfl }
  | timeout v hv => exact { h with timeoutInRange := hv }
  | silence l hl => exact { h with silLength := hl.trans h.silLength }
  | enqueued hadm hfull => exact inv_enqueue h hadm hfull
  | requested hadm => exact inv_requested h hadm
  | flushed => exact inv_flushed h
  | resetPending hf => exact inv_resetPending h hf
  | aborted => exact inv_aborted h

/-- One poll: the guard is set for its arm and cleared after it (R132). -/
theorem inv_pollOnce {s t : State} (h : BlockInv s) (ht : pollOnce s = .next t) : BlockInv t := by
  rcases pollOnce_cases ht with ⟨-, rfl⟩ | ⟨-, hguard, u, hu, rfl⟩
  · exact h
  · refine inv_pollArm ?_ hu
    exact { h with guardClear := rfl }

/-- DISP.GRANT (R184): the request has passed its admission test, so it may be in flight. -/
theorem inv_granted {s : State} (h : BlockInv s) (hr : s.syncReq = true) (hes : s.es = .idle) :
    BlockInv (started (granted s)) := by
  obtain ⟨-, -, -, hto⟩ := inv_bounds h
  have hready := h.readyFirst (.inr (.inl hr))
  have hdir := inv_dir_low h (by simp [hes])
  exact { h with
    syncAdu := h.syncAdu
    curAdu := h.syncAdu
    idleIff := by simp [started, granted]
    terminalSync := by simp [started, granted, terminalState]
    busyInFlight := by simp [started, granted]
    inFlightBusy := fun _ _ _ => rfl
    requestNotBusy := by simp [started, granted]
    countdownArmed := fun _ => hto
    curLegal := fun _ => ⟨h.syncLegal hr, rfl⟩
    syncLegal := by simp [started, granted]
    syncSync := h.syncSync
    readyFirst := fun _ => hready
    dirLevel := by cases hd : s.ctrl.diren <;> simp [started, granted, hd, hdir]
    pendingInFlight := fun _ => rfl }

theorem inv_runCommand {w : Word32} {s t : State} (h : BlockInv s) (ht : runCommand w s = .next t) : BlockInv t := by
  rcases runCommand_cases ht with ⟨u, v, hu, rfl⟩ | ⟨u, err, v, hw, rfl⟩
  · exact inv_respond (inv_pollOnce h hu) _ _
  · exact inv_respond (inv_hostWrite h hw) _ _

theorem inv_runEvent {e : Event} {s t : State} (h : BlockInv s) (ht : runEvent e s = .next t) : BlockInv t := by
  cases e with
  | command w => exact inv_runCommand h ht
  | tick => cases ht; exact inv_free h _ _ _ _ _ _ _ _ _ _ _
  | txOut =>
    cases ht
    obtain ⟨q, l, hq⟩ := txOutStep_eq s
    rw [hq]
    exact inv_free h _ _ _ _ _ _ _ _ _ _ _
  | rxIn b => cases ht; exact inv_free h _ _ _ _ _ _ _ _ _ _ _
  | dispGrant =>
    rcases grantStep_cases ht with rfl | ⟨hr, hes, -, rfl⟩
    · exact h
    · exact inv_granted h hr hes
  | dispComplete =>
    cases ht
    rcases completeStep_cases s with hc | ⟨hterm, k, c, m, hc⟩
    · rwa [hc]
    · rw [hc]; exact inv_deliver h hterm k c m
  | por => cases ht; exact inv_free (inv_resetWith h.parLegal) _ _ _ _ _ _ _ _ _ _ _

/-- Settles O55: by cases on the agent whose step it is, each with its lemma above. -/
theorem everyStepKeepsTheInvariant : Obligations.EveryStepKeepsTheInvariant := by
  intro s t h ht
  rcases step_cases ht with ⟨-, rfl⟩ | ⟨e, rest, -, he⟩
  · exact h
  · exact inv_runEvent (inv_free h _ _ _ _ _ _ _ _ _ _ _) he

/-! ### CTRL is sticky (R38) -/

theorem responseWord_accepted (v : Word) : responseWord false v = v.setWidth 32 := by
  have h : (bit false ++ (0 : BitVec 15) : BitVec 16) = 0#16 := by decide
  rw [responseWord, h]
  exact (BitVec.setWidth_eq_append (by omega)).symm

theorem accept_eq_accepted (v : Word) (s : State) : accept v s = .next (accepted v s) := by
  simp [accept, respond, accepted, answered, responseWord_accepted]

theorem refuse_eq_refusedFor (r : Reason) (s : State) : refuse r s = .next (refusedFor (reasonCode r).toNat s) := by
  cases r <;> rfl

/-- The reserved bits of a CTRL value are zero exactly below 8. -/
theorem ctrlReserved_eq_zero_iff (v : Word) : v.extractLsb' 3 13 = 0 ↔ v.toNat < 8 := by
  rw [← BitVec.toNat_inj, BitVec.extractLsb'_toNat]
  simp only [BitVec.ofNat_eq_ofNat, BitVec.toNat_ofNat, Nat.shiftRight_eq_div_pow]
  omega

theorem execWrreg_ctrl (v : Word) (s : State) :
    exec (.wrreg 0x02 v) s =
      if v.toNat < 8 then .next (accepted 0 { s with ctrl := ctrlWritten s.ctrl v }) else .next (refusedFor 2 s) := by
  have hreg : regOfNumber s.par.nb 0x02 = some .ctrl := rfl
  simp only [exec, execWrreg, hreg, writeReg, writeCtrl, ctrlReserved_eq_zero_iff]
  by_cases hv : v.toNat < 8
  · simp only [hv, if_true, accept_eq_accepted]
  · simp only [hv, if_false, refuse_eq_refusedFor]; rfl

/-- What a step may do to CTRL: SLOADED and BOUND stay set, DIREN stays once BOUND is set. -/
def CtrlKept (c d : Ctrl) : Prop :=
  (c.sloaded = true → d.sloaded = true) ∧ (c.bound = true → d.bound = true ∧ d.diren = c.diren)

theorem CtrlKept.of_eq {c d : Ctrl} (h : d = c) : CtrlKept c d := by subst h; exact ⟨id, fun hb => ⟨hb, rfl⟩⟩

theorem ctrlKept_ctrlWritten (c : Ctrl) (v : Word) : CtrlKept c (ctrlWritten c v) :=
  ⟨fun h => by simp [ctrlWritten, h], fun h => by simp [ctrlWritten, h]⟩

theorem HostWrite.ctrlKept {s t : State} (h : HostWrite s t) : CtrlKept s.ctrl t.ctrl := by
  cases h with
  | ctrl v => exact ctrlKept_ctrlWritten _ v
  | nothing | crc | staging | baud | timeout | silence | enqueued | requested | flushed | resetPending | aborted =>
    exact .of_eq rfl

/-! ### What the engine leaves alone (R157) -/

/-- Between its decrement and its end the AwaitReply arm writes only these fields (R139 to R145). -/
theorem awaitDecided_frame {s t : State} (h : awaitDecided s = .next t) :
    t = { s with
      cur := t.cur, es := t.es, silt0 := t.silt0, exc := t.exc, exkind := t.exkind, rxf := t.rxf, cpl := t.cpl } := by
  rcases awaitDecided_cases h with ⟨-, -, rfl⟩ | ⟨-, -, -, rfl⟩ | ⟨-, -, bs, rest, -, -, -, hi⟩ | ⟨-, -, rfl⟩ |
    ⟨-, bs, rest, -, -, -, hi⟩
  · rfl
  · rfl
  · have hcase := inspectReply_cases hi
    split at hcase <;> (subst hcase; rfl)
  · rfl
  · obtain ⟨-, hcase⟩ := classifyReply_cases hi
    split at hcase <;> split at hcase <;> (subst hcase; rfl)

/-- An arm of the poll writes only these fields: the ring, the packet, the engine, the transport's queues, the line's
direction, the records. -/
theorem pollArm_frame {s t : State} (h : pollArm s = .next t) :
    t = { s with
      q := t.q, head := t.head, tail := t.tail, syncBusy := t.syncBusy, cur := t.cur, es := t.es, tocnt := t.tocnt
      silt0 := t.silt0, exc := t.exc, exkind := t.exkind, rstPend := t.rstPend, dir := t.dir, txq := t.txq
      rxf := t.rxf, cpl := t.cpl } := by
  rcases pollArm_cases h with ⟨rfl, -⟩ | ⟨-, -, -, -, e, -, -, rfl⟩ | ⟨-, -, rfl⟩ | ⟨-, ha⟩ | ⟨-, rfl⟩ | ⟨-, rfl⟩ |
    ⟨-, rfl⟩ | ⟨-, d, -, -, rfl⟩
  · rfl
  · rfl
  · rfl
  · rw [awaitDecided_frame ha]
  · rfl
  · rfl
  · rfl
  · unfold flushIfPending
    split <;> rfl

/-- A poll writes the fields of its arm, the tick it used and the guard (R132). -/
theorem pollOnce_frame {s t : State} (h : pollOnce s = .next t) :
    t = { s with
      lastMs := t.lastMs, guard := t.guard
      q := t.q, head := t.head, tail := t.tail, syncBusy := t.syncBusy, cur := t.cur, es := t.es, tocnt := t.tocnt
      silt0 := t.silt0, exc := t.exc, exkind := t.exkind, rstPend := t.rstPend, dir := t.dir, txq := t.txq
      rxf := t.rxf, cpl := t.cpl } := by
  rcases pollOnce_cases h with ⟨-, rfl⟩ | ⟨-, -, u, hu, rfl⟩
  · rfl
  · rw [pollArm_frame hu]

theorem ctrlKept_runEvent {e : Event} {s t : State} (hpor : e ≠ .por) (h : runEvent e s = .next t) :
    CtrlKept s.ctrl t.ctrl := by
  cases e with
  | command w =>
    rcases runCommand_cases h with ⟨u, v, hu, rfl⟩ | ⟨u, err, v, hw, rfl⟩
    · have hctrl := congrArg State.ctrl (pollOnce_frame hu)
      exact .of_eq hctrl
    · exact hw.ctrlKept
  | tick | rxIn b => cases h; exact .of_eq rfl
  | txOut =>
    cases h
    obtain ⟨q, l, hq⟩ := txOutStep_eq s
    rw [hq]
    exact .of_eq rfl
  | dispGrant =>
    rcases grantStep_cases h with rfl | ⟨-, -, -, rfl⟩
    · exact .of_eq rfl
    · exact .of_eq rfl
  | dispComplete =>
    cases h
    rcases completeStep_cases s with hc | ⟨-, k, c, m, hc⟩
    · rw [hc]; exact .of_eq rfl
    · rw [hc]; exact .of_eq rfl
  | por => exact absurd rfl hpor

/-- Settles O22: the two halves of `execWrreg_ctrl`, and `CtrlKept` by cases on the agent. -/
theorem wrregCtrlIsSticky : Obligations.WrregCtrlIsSticky := by
  refine ⟨fun v s hv => ?_, fun v s hv => ?_, fun e s t hpor ht => ctrlKept_runEvent hpor ht⟩
  · simp [execWrreg_ctrl, hv, ctrlWritten]
  · rw [execWrreg_ctrl, if_neg (by omega)]

end Sys2Proof
end

section
/-! SUPPORT. Two runs that differ in unspecified contents only (R25 to R27): each step treats them alike. A step that
reads none of the contents commutes with replacing them; the others read them only where the two states agree. -/

namespace Sys2Proof

open Sys2Proof.Machine Sys2Proof.Claims

/-! ### What agreement gives -/

theorem Claims.AgreeWhereRead.exists_contents {s u : State} (h : AgreeWhereRead s u) :
    ∃ q y c, u = { s with q := q, sync := y, cur := c } := ⟨_, _, _, h.1⟩

theorem Claims.AgreeWhereRead.par_eq {s u : State} (h : AgreeWhereRead s u) : u.par = s.par := by rw [h.1]

theorem Claims.AgreeWhereRead.es_eq {s u : State} (h : AgreeWhereRead s u) : u.es = s.es := by rw [h.1]

theorem Claims.AgreeWhereRead.waiting_eq {s u : State} (h : AgreeWhereRead s u) : waiting u = waiting s := h.2.1

theorem Claims.AgreeWhereRead.sync_eq {s u : State} (h : AgreeWhereRead s u) (hr : s.syncReq = true) :
    u.sync = s.sync := h.2.2.1 hr

theorem Claims.AgreeWhereRead.valid_eq {s u : State} (h : AgreeWhereRead s u) : u.cur.valid = s.cur.valid := h.2.2.2.1

theorem Claims.AgreeWhereRead.cur_eq {s u : State} (h : AgreeWhereRead s u) (hv : s.cur.valid = true) :
    u.cur = s.cur := h.2.2.2.2 hv

theorem agree_refl (s : State) : AgreeWhereRead s s := ⟨rfl, rfl, fun _ => rfl, rfl, fun _ => rfl⟩

/-! ### Results that agree -/

/-- Whatever next state `r` answers, `r'` answers one that agrees with it. -/
def StepsAlike (r r' : Res) : Prop := ∀ t, r = .next t → ∃ v, r' = .next v ∧ AgreeWhereRead t v

theorem alike_next {s u : State} (h : AgreeWhereRead s u) : StepsAlike (.next s) (.next u) :=
  fun _ ht => ⟨u, rfl, by cases ht; exact h⟩

theorem alike_fault (e : Fault) (r : Res) : StepsAlike (.fault e) r := fun _ ht => by cases ht

theorem alike_ite {c c' : Prop} [Decidable c] [Decidable c'] (hc : c' ↔ c) {r₁ r₂ r₁' r₂' : Res}
    (h₁ : c → StepsAlike r₁ r₁') (h₂ : ¬c → StepsAlike r₂ r₂') :
    StepsAlike (if c then r₁ else r₂) (if c' then r₁' else r₂') := by
  by_cases h : c
  · rw [if_pos h, if_pos (hc.2 h)]; exact h₁ h
  · rw [if_neg h, if_neg (mt hc.1 h)]; exact h₂ h

theorem alike_andThen {r r' : Res} {f f' : State → Res} (h : StepsAlike r r')
    (hf : ∀ t v, AgreeWhereRead t v → StepsAlike (f t) (f' v)) : StepsAlike (andThen r f) (andThen r' f') := by
  intro t ht
  obtain ⟨s, rfl, hs⟩ := andThen_eq_next ht
  obtain ⟨u, rfl, hu⟩ := h s rfl
  exact hf s u hu t hs

/-- The ring, the blocking request and the packet slot of `x` in `s`. -/
def withSends (x s : State) : State :=
  { s with q := x.q, head := x.head, tail := x.tail, sync := x.sync, syncReq := x.syncReq, cur := x.cur }

/-- States that agree still agree after the same change of everything but the sends. -/
theorem agree_of_sends_kept {s u t v : State} (h : AgreeWhereRead s u) (ht : t = withSends s t) (hp : t.par = s.par)
    (hv : v = { t with q := u.q, sync := u.sync, cur := u.cur }) : AgreeWhereRead t v := by
  obtain ⟨hu, hw, hsync, hvalid, hcur⟩ := h
  have hq : t.q = s.q := by rw [ht]; rfl
  have hhead : t.head = s.head := by rw [ht]; rfl
  have htail : t.tail = s.tail := by rw [ht]; rfl
  have hy : t.sync = s.sync := by rw [ht]; rfl
  have hreq : t.syncReq = s.syncReq := by rw [ht]; rfl
  have hc : t.cur = s.cur := by rw [ht]; rfl
  have hpu : u.par = s.par := by rw [hu]
  have hheadu : u.head = s.head := by rw [hu]
  have htailu : u.tail = s.tail := by rw [hu]
  subst hv
  rw [AgreeWhereRead, hy, hreq, hc, waiting_congr s t hp hq hhead htail, ← hw]
  exact ⟨rfl, waiting_congr u _ (hp.trans hpu.symm) rfl (hhead.trans hheadu.symm) (htail.trans htailu.symm),
    hsync, hvalid, hcur⟩

theorem agree_respond {s u : State} (h : AgreeWhereRead s u) (err : Bool) (v : Word) :
    AgreeWhereRead (respond err v s) (respond err v u) :=
  agree_of_sends_kept h rfl rfl (by rw [h.1]; rfl)

theorem alike_accept {s u : State} (h : AgreeWhereRead s u) (v : Word) : StepsAlike (accept v s) (accept v u) :=
  alike_next (agree_respond h false v)

theorem alike_refuse {s u : State} (h : AgreeWhereRead s u) (r : Reason) : StepsAlike (refuse r s) (refuse r u) :=
  alike_next (agree_respond h true _)

/-! ### Steps that do not see the sends -/

/-- `f` treats a state and its image under `g` alike: it neither reads nor writes what `g` replaces. -/
def CommutesWith (g : State → State) (f : State → Res) : Prop := ∀ s, f (g s) = andThen (f s) fun t => .next (g t)

/-- A step that commutes with replacing the sends keeps them: replace them by themselves. -/
theorem sends_kept_of_commutes {f : State → Res} {s t : State} (hf : CommutesWith (withSends s) f)
    (ht : f s = .next t) : t = withSends s t := by
  have hself : f s = andThen (f s) fun t => .next (withSends s t) := hf s
  rw [ht] at hself
  exact Host.Outcome.next.inj hself

theorem alike_of_commutes {f : State → Res} {s u : State} (hf : ∀ x, CommutesWith (withSends x) f)
    (hp : ∀ t, f s = .next t → t.par = s.par) (h : AgreeWhereRead s u) : StepsAlike (f s) (f u) := by
  intro t ht
  have hu : u = withSends u s := by rw [h.1]; rfl
  have hkept := sends_kept_of_commutes (hf s) ht
  refine ⟨withSends u t, ?_, agree_of_sends_kept h hkept (hp t ht) ?_⟩
  · calc f u = f (withSends u s) := congrArg f hu
      _ = andThen (f s) (fun t => .next (withSends u t)) := hf u s
      _ = .next (withSends u t) := by rw [ht]; rfl
  · rw [hkept, h.1]; rfl

theorem ite_commutes {c c' : Prop} [Decidable c] [Decidable c'] (hc : c' ↔ c) {r₁ r₂ r₁' r₂' : Res} {k : State → Res}
    (h₁ : r₁' = andThen r₁ k) (h₂ : r₂' = andThen r₂ k) :
    (if c' then r₁' else r₂') = andThen (if c then r₁ else r₂) k := by
  by_cases h : c
  · rw [if_pos h, if_pos (hc.2 h), h₁]
  · rw [if_neg h, if_neg (mt hc.1 h), h₂]

theorem execWrreg_commutes (x : State) (reg : Nat) (v : Word) : CommutesWith (withSends x) (execWrreg reg v) := by
  intro s
  have hreg : regOfNumber (withSends x s).par.nb reg = regOfNumber s.par.nb reg := rfl
  simp only [execWrreg, hreg]
  cases regOfNumber s.par.nb reg with
  | none => rfl
  | some r =>
    cases r with
    | ctrl => by_cases hv : v.extractLsb' 3 13 = 0 <;> simp only [writeReg, writeCtrl, hv, if_true, if_false] <;> rfl
    | baud =>
      have hnb : (withSends x s).par.nb = s.par.nb := rfl
      by_cases hv : v.toNat < s.par.nb <;> simp only [writeReg, writeBaud, hnb, hv, if_true, if_false] <;> rfl
    | timeout =>
      have hpar : (withSends x s).par = s.par := rfl
      by_cases hv : s.par.tmin ≤ v.toNat ∧ v.toNat ≤ s.par.tmax <;>
        simp only [writeReg, writeTimeout, hpar, hv, if_false] <;> rfl
    | crc | stat | txlen | rxlen | ctx | mflags | head | tail | tocnt | msl | msh | silt0l | silt0h | sil k | dsil k
    | exc | silact => rfl

/-- The commands that read neither the ring, nor the request, nor the packet slot. -/
def blindToSends (i : Instr) : Bool :=
  match i with
  | .nop | .crcInit | .crcUpd _ | .crcBuf _ | .crcAppend _ | .crcCheck _ | .stb _ _ | .ldb _ | .wrreg _ _ | .isReady
  | .silDef => true
  | .rdreg _ | .sendA | .sendS | .getState | .poll | .rstSoft | .rstAbort => false

theorem exec_commutes {i : Instr} (hi : blindToSends i = true) (x : State) : CommutesWith (withSends x) (exec i) := by
  intro s
  cases i with
  | nop | crcInit | crcUpd byte | isReady | silDef => rfl
  | crcBuf | crcAppend | crcCheck | stb | ldb => exact ite_commutes Iff.rfl rfl rfl
  | wrreg reg value => exact execWrreg_commutes x reg value s
  | rdreg | sendA | sendS | getState | poll | rstSoft | rstAbort => cases hi

theorem HostWrite.par_eq {s t : State} (h : HostWrite s t) : t.par = s.par := by cases h <;> rfl

theorem alike_blind {i : Instr} (hi : blindToSends i = true) {s u : State} (h : AgreeWhereRead s u) :
    StepsAlike (exec i s) (exec i u) := by
  refine alike_of_commutes (exec_commutes hi) (fun t ht => ?_) h
  obtain ⟨t, err, v, hw, rfl⟩ :=
    exec_writes i s (by rintro rfl; cases hi) (by rintro rfl; cases hi) t ht
  exact hw.par_eq

/-! ### The commands that do -/

/-- STAT shows the packet slot only while it is valid (R33). -/
theorem statWord_agree {s u : State} (h : AgreeWhereRead s u) : statWord u = statWord s := by
  have hasync : curAsync u = curAsync s := by
    cases hv : s.cur.valid
    · simp [curAsync, h.valid_eq, hv]
    · simp [curAsync, h.cur_eq hv]
  unfold statWord
  rw [hasync, h.valid_eq, h.1]
  rfl

theorem regValue_agree {s u : State} (h : AgreeWhereRead s u) (r : Reg) : regValue u r = regValue s r := by
  cases r with
  | stat => exact congrArg some (statWord_agree h)
  | crc | ctrl | baud | timeout | txlen | rxlen | ctx | mflags | head | tail | tocnt | msl | msh | silt0l | silt0h
  | sil k | dsil k | exc | silact => rw [h.1]; rfl

theorem alike_execRdreg {s u : State} (h : AgreeWhereRead s u) (reg : Nat) :
    StepsAlike (execRdreg reg s) (execRdreg reg u) := by
  have hpar := h.par_eq
  simp only [execRdreg, hpar, regValue_agree h]
  split
  · exact alike_refuse h _
  · split
    · exact alike_fault _ _
    · exact alike_accept h _

theorem agree_enqueue {s u : State} (hs : BlockInv s) (hu : BlockInv u) (h : AgreeWhereRead s u) (e : Entry)
    (hfull : ringFull s = false) : AgreeWhereRead (enqueue e s) (enqueue e u) := by
  obtain ⟨q, y, c, rfl⟩ := h.exists_contents
  obtain ⟨-, hw, hsync, hvalid, hcur⟩ := h
  have hle := (inv_bounds hs).2.1
  refine ⟨rfl, ?_, hsync, hvalid, hcur⟩
  rw [waiting_enqueue _ _ hs.qLength hle hs.headInRing hs.tailInRing hfull,
    waiting_enqueue _ _ hu.qLength hle hu.headInRing hu.tailInRing hfull, hw]

theorem alike_execSendA {s u : State} (hs : BlockInv s) (hu : BlockInv u) (h : AgreeWhereRead s u) :
    StepsAlike (execSendA s) (execSendA u) := by
  have hadm : admission false u = admission false s := by rw [h.1]; rfl
  have hfull : ringFull u = ringFull s := by rw [h.1]; rfl
  have hhead : u.head = s.head := by rw [h.1]
  have hpar := h.par_eq
  have hentry : stagedEntry true u = stagedEntry true s := by rw [h.1]; rfl
  simp only [execSendA, hadm, hfull, hhead, hs.qLength, hu.qLength, hpar, hentry]
  split
  · exact alike_refuse h _
  · split
    · exact alike_accept h _
    · split
      · exact alike_fault _ _
      · exact alike_accept (agree_enqueue hs hu h _ (by simpa using ‹¬ringFull s = true›)) _

/-- SEND.S overwrites the request's contents whole (R181). -/
theorem agree_requested {s u : State} (h : AgreeWhereRead s u) :
    AgreeWhereRead { s with sync := stagedEntry false s, syncReq := true }
      { u with sync := stagedEntry false u, syncReq := true } := by
  obtain ⟨q, y, c, rfl⟩ := h.exists_contents
  obtain ⟨-, hw, -, hvalid, hcur⟩ := h
  exact ⟨rfl, hw, fun _ => rfl, hvalid, hcur⟩

theorem alike_execSendS {s u : State} (h : AgreeWhereRead s u) : StepsAlike (execSendS s) (execSendS u) := by
  have hadm : admission true u = admission true s := by rw [h.1]; rfl
  simp only [execSendS, hadm]
  split
  · exact alike_refuse h _
  · exact alike_accept (agree_requested h) _

/-- A flushed ring shows no slot (R254). -/
theorem agree_flushed {s u : State} (h : AgreeWhereRead s u) :
    AgreeWhereRead { s with head := s.tail } { u with head := u.tail } := by
  obtain ⟨q, y, c, rfl⟩ := h.exists_contents
  obtain ⟨-, -, hsync, hvalid, hcur⟩ := h
  exact ⟨rfl, by rw [waiting_flushed _ rfl, waiting_flushed _ rfl], hsync, hvalid, hcur⟩

theorem agree_resetPending {s u : State} (h : AgreeWhereRead s u) :
    AgreeWhereRead { s with rstPend := true } { u with rstPend := true } :=
  agree_of_sends_kept h rfl rfl (by rw [h.1])

theorem alike_execRstSoft {s u : State} (h : AgreeWhereRead s u) : StepsAlike (execRstSoft s) (execRstSoft u) := by
  have hes := h.es_eq
  have hvalid := h.valid_eq
  exact alike_ite (by rw [hes, hvalid]) (fun _ => alike_accept (agree_flushed h) _)
    fun _ => alike_accept (agree_resetPending h) _

/-- After an abort none of the contents is in sight (R253). -/
theorem agree_aborted {s u : State} (h : AgreeWhereRead s u) : AgreeWhereRead (aborted s) (aborted u) := by
  obtain ⟨q, y, c, rfl⟩ := h.exists_contents
  refine ⟨rfl, ?_, fun hr => ?_, rfl, fun hv => ?_⟩
  · rw [waiting_flushed _ rfl, waiting_flushed _ rfl]
  · cases hr
  · cases hv

/-! ### The poll outside Idle: the packet is in flight, so the two states have it in common -/

/-- The ring's slots and the request's contents of `x` in `s`. -/
def withSlots (x s : State) : State := { s with q := x.q, sync := x.sync }

theorem captureReply_commutes {x : State} {f : State → Res} (hf : CommutesWith (withSlots x) f) (n : Nat) :
    CommutesWith (withSlots x) (captureReply n f) := by
  intro s
  have hcap : captureBytes (withSlots x s).par.aduCap 0 n (withSlots x s).rxf (withSlots x s).cur.entry.msg.adu =
      captureBytes s.par.aduCap 0 n s.rxf s.cur.entry.msg.adu := rfl
  unfold captureReply
  rw [hcap]
  cases captureBytes s.par.aduCap 0 n s.rxf s.cur.entry.msg.adu with
  | error e => rfl
  | ok p => exact hf (captured p.1 p.2 s)

theorem inspectReply_commutes (x : State) : CommutesWith (withSlots x) inspectReply :=
  fun _ => ite_commutes Iff.rfl rfl rfl

theorem replyOk_commutes (x : State) : CommutesWith (withSlots x) replyOk := fun _ => ite_commutes Iff.rfl rfl rfl

theorem replyCrcMismatch_commutes (x : State) : CommutesWith (withSlots x) replyCrcMismatch :=
  fun _ => ite_commutes Iff.rfl rfl rfl

theorem classifyReply_commutes (x : State) : CommutesWith (withSlots x) classifyReply := fun s =>
  ite_commutes Iff.rfl
    (ite_commutes Iff.rfl rfl (ite_commutes Iff.rfl (replyOk_commutes x s) (replyCrcMismatch_commutes x s)))
    (replyOk_commutes x s)

theorem timeoutSync_commutes (x : State) : CommutesWith (withSlots x) timeoutSync := fun s =>
  ite_commutes Iff.rfl (captureReply_commutes (inspectReply_commutes x) 3 s) rfl

theorem awaitDecided_commutes (x : State) : CommutesWith (withSlots x) awaitDecided := fun s =>
  ite_commutes Iff.rfl (ite_commutes Iff.rfl rfl (timeoutSync_commutes x s))
    (ite_commutes Iff.rfl (captureReply_commutes (classifyReply_commutes x) _ s) rfl)

theorem flushIfPending_withSlots (x s : State) : flushIfPending (withSlots x s) = withSlots x (flushIfPending s) := by
  have hp : (withSlots x s).rstPend = s.rstPend := rfl
  unfold flushIfPending
  rw [hp]
  split <;> rfl

theorem silentArm_commutes (x : State) : CommutesWith (withSlots x) silentArm := by
  intro s
  have hsil : silenceFor (withSlots x s) (withSlots x s).baud = silenceFor s s.baud := rfl
  simp only [silentArm, hsil]
  cases silenceFor s s.baud with
  | none => rfl
  | some d =>
    exact ite_commutes Iff.rfl
      (congrArg Host.Outcome.next
        (flushIfPending_withSlots x { s with cur := { s.cur with valid := false }, es := .idle })) rfl

theorem pollArm_commutes (x : State) {s : State} (hes : s.es ≠ .idle) :
    pollArm (withSlots x s) = andThen (pollArm s) fun t => .next (withSlots x t) := by
  have hes' : (withSlots x s).es = s.es := rfl
  simp only [pollArm, hes']
  cases hs : s.es with
  | idle => exact absurd hs hes
  | tx => exact ite_commutes Iff.rfl rfl rfl
  | awaitReply => exact awaitDecided_commutes x { s with tocnt := s.tocnt - 1 }
  | gotReply | exception | timeout => rfl
  | silent => exact silentArm_commutes x s

/-- Outside Idle an arm moves HEAD only to empty the ring, and TAIL not at all (R152). -/
theorem pollArm_indices {s t : State} (hes : s.es ≠ .idle) (h : pollArm s = .next t) :
    t.tail = s.tail ∧ (t.head = s.head ∨ t.head = t.tail) := by
  rcases pollArm_cases h with ⟨rfl, -⟩ | ⟨hi, -⟩ | ⟨-, -, rfl⟩ | ⟨-, ha⟩ | ⟨-, rfl⟩ | ⟨-, rfl⟩ | ⟨-, rfl⟩ |
    ⟨-, d, -, -, rfl⟩
  · exact ⟨rfl, .inl rfl⟩
  · exact absurd hi hes
  · exact ⟨rfl, .inl rfl⟩
  · rw [awaitDecided_frame ha]; exact ⟨rfl, .inl rfl⟩
  · exact ⟨rfl, .inl rfl⟩
  · exact ⟨rfl, .inl rfl⟩
  · exact ⟨rfl, .inl rfl⟩
  · unfold flushIfPending
    split
    · exact ⟨rfl, .inr rfl⟩
    · exact ⟨rfl, .inl rfl⟩

/-- The waiting entries do not change with slots that hold none, after an arm outside Idle. -/
theorem waiting_withSlots_pollArm {s u t : State} (hes : s.es ≠ .idle) (hw : waiting (withSlots u s) = waiting s)
    (hq : t.q = s.q) (ht : pollArm s = .next t) : waiting (withSlots u t) = waiting t := by
  have hp : t.par = s.par := by rw [pollArm_frame ht]
  obtain ⟨htail, hhead | hempty⟩ := pollArm_indices hes ht
  · rw [waiting_congr s t hp hq hhead htail, ← hw]
    exact waiting_congr _ _ hp rfl hhead htail
  · exact (waiting_flushed (withSlots u t) hempty).trans (waiting_flushed t hempty).symm

theorem alike_pollArm_of_ne_idle {s u : State} (hv : s.cur.valid = true) (hes : s.es ≠ .idle)
    (h : AgreeWhereRead s u) : StepsAlike (pollArm s) (pollArm u) := by
  intro t ht
  obtain ⟨hu, hw, hsync, -, hcur⟩ := h
  have hslots : u = withSlots u s := by rw [hu, hcur hv]; rfl
  have hself : pollArm s = _ := pollArm_commutes s hes
  rw [ht] at hself
  have hkept : t = withSlots s t := Host.Outcome.next.inj hself
  have hq : t.q = s.q := by rw [hkept]; rfl
  have hy : t.sync = s.sync := by rw [hkept]; rfl
  have hreq : t.syncReq = s.syncReq := by rw [pollArm_frame ht]
  have hrun : pollArm u = .next (withSlots u t) := by
    calc pollArm u = pollArm (withSlots u s) := congrArg pollArm hslots
      _ = andThen (pollArm s) (fun t => .next (withSlots u t)) := pollArm_commutes u hes
      _ = .next (withSlots u t) := by rw [ht]; rfl
  refine ⟨withSlots u t, hrun, rfl, waiting_withSlots_pollArm hes (hslots ▸ hw) hq ht, fun hr => ?_, rfl, fun _ => rfl⟩
  rw [hy]
  exact hsync (hreq ▸ hr)

/-! ### The poll in Idle and the dispatcher: the entry that starts is one the two states have in common -/

theorem getElem?_tail {s : State} (h : BlockInv s) : ∃ e, s.q[s.tail.toNat]? = some e :=
  ⟨_, List.getElem?_eq_getElem (by rw [h.qLength]; exact h.tailInRing)⟩

theorem alike_startTx {s u : State} (hcur : u.cur = s.cur) (hpar : u.par = s.par)
    (h : AgreeWhereRead (started s) (started u)) : StepsAlike (startTx s) (startTx u) := by
  rw [startTx_eq, startTx_eq, hcur, hpar]
  split
  · exact alike_next h
  · exact alike_fault _ _

/-- The entry `e` at TAIL consumed and in the packet slot, before its transmission starts (R135). -/
def dequeued (e : Entry) (s : State) : State :=
  { s with
    q := s.q.set s.tail.toNat { e with sent := true }
    tail := ringNext s s.tail
    cur := ⟨true, { e with sent := true }⟩ }

theorem idleArm_eq_startTx {s : State} {e : Entry} (hc : s.cur.valid = false ∧ s.syncReq = false ∧ ringEmpty s = false)
    (he : s.q[s.tail.toNat]? = some e) : idleArm s = startTx (dequeued e s) := by
  simp only [idleArm, if_pos hc, he]
  rfl

theorem waiting_eq_cons_dequeued {s : State} {e : Entry} (h : BlockInv { s with guard := false })
    (hne : s.head ≠ s.tail) (he : s.q[s.tail.toNat]? = some e) : waiting s = e :: waiting (started (dequeued e s)) :=
  waiting_dequeue s (started (dequeued e s)) e h.qLength (inv_bounds h).2.1 h.headInRing h.tailInRing hne he rfl rfl
    rfl rfl

/-- Idle (R135): both rings wait with the same first entry, and it is what starts. -/
theorem alike_idleArm {s u : State} (hs : BlockInv { s with guard := false }) (hu : BlockInv { u with guard := false })
    (h : AgreeWhereRead s u) : StepsAlike (idleArm s) (idleArm u) := by
  obtain ⟨q, y, c, rfl⟩ := h.exists_contents
  by_cases hc : s.cur.valid = false ∧ s.syncReq = false ∧ ringEmpty s = false
  · obtain ⟨hv, hr, hempty⟩ := id hc
    have hne : s.head ≠ s.tail := by simpa [ringEmpty] using hempty
    obtain ⟨e, he⟩ := getElem?_tail hs
    obtain ⟨f, hf⟩ := getElem?_tail hu
    have hboth := h.waiting_eq
    rw [waiting_eq_cons_dequeued hs hne he, waiting_eq_cons_dequeued hu hne hf] at hboth
    obtain ⟨rfl, hrest⟩ := List.cons.inj hboth
    rw [idleArm_eq_startTx hc he, idleArm_eq_startTx ⟨h.valid_eq.trans hv, hr, hempty⟩ hf]
    exact alike_startTx rfl rfl ⟨rfl, hrest, h.sync_eq, rfl, fun _ => rfl⟩
  · have hvalid : c.valid = s.cur.valid := h.valid_eq
    exact alike_ite (by rw [hvalid]; rfl) (fun hc' => absurd hc' hc) fun _ => alike_next h

theorem alike_pollArm {s u : State} (hs : BlockInv { s with guard := false }) (hu : BlockInv { u with guard := false })
    (h : AgreeWhereRead s u) : StepsAlike (pollArm s) (pollArm u) := by
  by_cases hes : s.es = .idle
  · have hes' := h.es_eq.trans hes
    simpa only [pollArm, hes, hes'] using alike_idleArm hs hu h
  · exact alike_pollArm_of_ne_idle (inv_valid (s := { s with guard := false }) hs hes) hes h

theorem alike_pollOnce {s u : State} (hs : BlockInv s) (hu : BlockInv u) (h : AgreeWhereRead s u) :
    StepsAlike (pollOnce s) (pollOnce u) := by
  have hms : u.ms = s.ms := by rw [h.1]
  have hlast : u.lastMs = s.lastMs := by rw [h.1]
  have hguard : u.guard = s.guard := by rw [h.1]
  simp only [pollOnce, hms, hlast, hguard]
  split
  · exact alike_next h
  · split
    · exact alike_next h
    · refine alike_andThen (alike_pollArm { hs with guardClear := rfl } { hu with guardClear := rfl } ?_) fun t v hv =>
        alike_next (agree_of_sends_kept hv rfl rfl (by rw [hv.1]))
      exact agree_of_sends_kept h rfl rfl (by rw [h.1])

/-- A granted request is pending, so its contents agree (R184). -/
theorem agree_granted {s u : State} (h : AgreeWhereRead s u) (hr : s.syncReq = true) :
    AgreeWhereRead (started (granted s)) (started (granted u)) := by
  obtain ⟨q, y, c, rfl⟩ := h.exists_contents
  obtain ⟨-, hw, hsync, -, -⟩ := h
  obtain rfl : y = s.sync := hsync hr
  exact ⟨rfl, hw, fun _ => rfl, rfl, fun _ => rfl⟩

theorem alike_grantStep {s u : State} (h : AgreeWhereRead s u) : StepsAlike (grantStep s) (grantStep u) := by
  have hen : grantEnabled u = grantEnabled s := by
    rw [Bool.eq_iff_iff, grantEnabled_iff, grantEnabled_iff, h.valid_eq, h.1]
  rw [grantStep_eq, grantStep_eq, hen]
  split
  · have hr := ((grantEnabled_iff s).1 ‹_›).1
    exact alike_startTx (by simp [granted, h.sync_eq hr]) h.par_eq (agree_granted h hr)
  · exact alike_next h

theorem completeStep_of_not_valid {s : State} (h : s.cur.valid = false) : completeStep s = s := by
  simp [completeStep, completeEnabled, h]

theorem completeStep_withSlots (x s : State) : completeStep (withSlots x s) = withSlots x (completeStep s) := by
  have hen : completeEnabled (withSlots x s) = completeEnabled s := rfl
  have hes : (withSlots x s).es = s.es := rfl
  unfold completeStep
  rw [hen, hes]
  cases completeEnabled s with
  | false => rfl
  | true => cases s.es <;> rfl

/-- DISP.COMPLETE reads the packet slot only while it is valid (R186). -/
theorem agree_completeStep {s u : State} (h : AgreeWhereRead s u) :
    AgreeWhereRead (completeStep s) (completeStep u) := by
  cases hv : s.cur.valid with
  | false => rwa [completeStep_of_not_valid hv, completeStep_of_not_valid (h.valid_eq.trans hv)]
  | true =>
    have hcur := h.cur_eq hv
    have hslots : u = withSlots u s := by rw [h.1, hcur]; rfl
    have hrun : completeStep u = withSlots u (completeStep s) :=
      (congrArg completeStep hslots).trans (completeStep_withSlots u s)
    rcases completeStep_cases s with hc | ⟨-, k, c, m, hc⟩
    · rw [hrun, hc, ← hslots]; exact h
    · rw [hrun, hc]
      exact agree_of_sends_kept h rfl rfl (by rw [hcur]; rfl)

theorem agree_txOutStep {s u : State} (h : AgreeWhereRead s u) : AgreeWhereRead (txOutStep s) (txOutStep u) := by
  have htxq : u.txq = s.txq := by rw [h.1]
  unfold txOutStep
  rw [htxq]
  cases s.txq with
  | nil => exact h
  | cons b rest => exact agree_of_sends_kept h rfl rfl (by rw [h.1])

/-! ### All steps -/

theorem alike_exec {s u : State} (hs : BlockInv s) (hu : BlockInv u) (h : AgreeWhereRead s u) (i : Instr) :
    StepsAlike (exec i s) (exec i u) := by
  cases i with
  | nop | crcInit | crcUpd | crcBuf | crcAppend | crcCheck | stb | ldb | wrreg | isReady | silDef =>
    exact alike_blind rfl h
  | rdreg reg => exact alike_execRdreg h reg
  | sendA => exact alike_execSendA hs hu h
  | sendS => exact alike_execSendS h
  | getState =>
    refine alike_andThen (alike_pollOnce hs hu h) fun t v hv => ?_
    rw [hv.es_eq]
    exact alike_accept hv _
  | poll => exact alike_andThen (alike_pollOnce hs hu h) fun t v hv => alike_accept hv _
  | rstSoft => exact alike_execRstSoft h
  | rstAbort => exact alike_accept (agree_aborted h) _

theorem alike_runEvent {s u : State} (hs : BlockInv s) (hu : BlockInv u) (h : AgreeWhereRead s u) (e : Event) :
    StepsAlike (runEvent e s) (runEvent e u) := by
  cases e with
  | command w =>
    simp only [runEvent, runCommand]
    cases decode w with
    | instr i => exact alike_exec hs hu h i
    | rejected r => exact alike_refuse h r
  | tick => exact alike_next (agree_of_sends_kept h rfl rfl (by rw [h.1]; rfl))
  | txOut => exact alike_next (agree_txOutStep h)
  | rxIn b => exact alike_next (agree_of_sends_kept h rfl rfl (by rw [h.1]; rfl))
  | dispGrant => exact alike_grantStep h
  | dispComplete => exact alike_next (agree_completeStep h)
  | por =>
    have hpor : porStep u = porStep s := by rw [h.1]; rfl
    simp only [runEvent, hpor]
    exact alike_next (agree_refl _)

/-- Settles O57: by cases on the agent; a step that sees the contents does so only where the two states agree. -/
theorem unspecifiedContentsAreNeverRead : Obligations.UnspecifiedContentsAreNeverRead := by
  intro s u t hs hu h ht
  have hsched : u.schedule = s.schedule := by rw [h.1]
  rcases step_cases ht with ⟨hnil, rfl⟩ | ⟨e, rest, hcons, he⟩
  · exact ⟨u, by simp [step, hsched, hnil], h⟩
  · have hstep : step u = runEvent e { u with schedule := rest } := by simp [step, hsched, hcons]
    rw [hstep]
    have hrest : AgreeWhereRead { s with schedule := rest } { u with schedule := rest } :=
      agree_of_sends_kept h rfl rfl (by rw [h.1])
    have hs' : BlockInv { s with schedule := rest } := { hs with }
    have hu' : BlockInv { u with schedule := rest } := { hu with }
    exact alike_runEvent hs' hu' hrest e t he

end Sys2Proof
end

section
/-! SUPPORT. A step on a command word that decodes runs the decoded command (R70, R80; log entries 2 and 9). -/

namespace Sys2Proof

open Sys2Proof.Machine Sys2Proof.Claims

/-- The table's decoder reads the very word that `withFetchWord` presents (log entry 9). -/
theorem decodeTableWord_eq_some_iff {nbits w : Nat} {i : Instr} :
    decodeTableWord nbits w = some i ↔ decode (fetchedWord nbits w) = .instr i := by
  unfold decodeTableWord fetchedWord
  cases decode (BitVec.ofNat 32 (w % 2 ^ nbits)) with
  | instr j => simp
  | rejected r => simp

theorem runCommand_of_decode {w : Word32} {i : Instr} (h : decode w = .instr i) (s : State) :
    runCommand w s = exec i s := by
  simp only [runCommand, h]

theorem step_scheduled_command {w : Word32} {i : Instr} (h : decode w = .instr i) (s : State) :
    step (scheduled (.command w) s) = exec i s :=
  (step_scheduled (.command w) s).trans (runCommand_of_decode h s)

theorem withFetchWord_eq_scheduled (s : State) (nbits w : Nat) :
    s.withFetchWord nbits w = scheduled (.command (fetchedWord nbits w)) s := rfl

/-- Settles O7: presenting a word schedules it first, and the step on a scheduled word runs what it decodes to. -/
theorem stepRunsTheDecodedCommand : Obligations.StepRunsTheDecodedCommand := by
  refine ⟨fun w i s h => step_scheduled_command h s, fun w i s _ h => ?_⟩
  rw [withFetchWord_eq_scheduled]
  exact step_scheduled_command (decodeTableWord_eq_some_iff.1 h) s

end Sys2Proof
end

section
/-! SUPPORT. The decoder and the encoder (R80 to R82): each decoder row once, then both directions, the mask and match
rows, and the refused words (R81, R92). -/

namespace Sys2Proof

open Sys2Proof.Machine Sys2Proof.Claims

/-! ### Decoding an encoding -/

theorem toNat_ofNat_of_fitsV {n : Nat} (h : fitsV n = true) : (BitVec.ofNat 16 n).toNat = n :=
  Nat.mod_eq_of_lt (of_decide_eq_true h)

theorem toNat_ofNat_of_fitsA {n : Nat} (h : fitsA n = true) : (BitVec.ofNat 8 n).toNat = n :=
  Nat.mod_eq_of_lt (of_decide_eq_true h)

/-- A byte in V is read back and leaves V[15:8] zero (R81). -/
theorem extract_setWidth_byte (b : Byte) :
    (b.setWidth 16).extractLsb' 8 8 = 0 ∧ (b.setWidth 16).extractLsb' 0 8 = b := by
  revert b; decide

/-- Each command's operands come back from their fields, and its other fields are zero. -/
theorem decode_encode {i : Instr} (h : i.WellFormed) : decode (encode i) = .instr i := by
  cases i with
  | nop | crcInit | sendA | sendS | getState | isReady | silDef | poll | rstSoft | rstAbort => rfl
  | crcUpd byte => exact decode_commandWord 0x02 byte 0
  | crcBuf len =>
    exact (decode_commandWord 0x03 0 _).trans (congrArg (Decoded.instr ∘ .crcBuf) (toNat_ofNat_of_fitsV h))
  | crcAppend len =>
    exact (decode_commandWord 0x04 0 _).trans (congrArg (Decoded.instr ∘ .crcAppend) (toNat_ofNat_of_fitsV h))
  | crcCheck len =>
    exact (decode_commandWord 0x05 0 _).trans (congrArg (Decoded.instr ∘ .crcCheck) (toNat_ofNat_of_fitsV h))
  | stb index byte =>
    obtain ⟨hhigh, hlow⟩ := extract_setWidth_byte byte
    have hindex := toNat_ofNat_of_fitsA h
    rw [encode, decode_commandWord]
    simp [decodeFields, requireZero, hhigh, hlow, hindex]
  | ldb index =>
    exact (decode_commandWord 0x11 _ 0).trans (congrArg (Decoded.instr ∘ .ldb) (toNat_ofNat_of_fitsA h))
  | wrreg reg value =>
    exact (decode_commandWord 0x12 _ value).trans
      (congrArg (fun r => Decoded.instr (.wrreg r value)) (toNat_ofNat_of_fitsA h))
  | rdreg reg =>
    exact (decode_commandWord 0x13 _ 0).trans (congrArg (Decoded.instr ∘ .rdreg) (toNat_ofNat_of_fitsA h))

/-- Settles O2: by cases on the command, each through its fields. -/
theorem decodeOfEncodeIsTheCommand : Obligations.DecodeOfEncodeIsTheCommand := fun _ h => decode_encode h

/-! ### One row of the decoder -/

theorem requireZero_eq_instr_iff {z : Bool} {i j : Instr} : requireZero z i = .instr j ↔ z = true ∧ i = j := by
  cases z <;> simp [requireZero]

/-- The command `i` with its operands is what the word of these three fields stands for. -/
def EncodesFields (op a : Byte) (v : Word) (i : Instr) : Prop := encode i = commandWord op a v ∧ i.WellFormed

theorem encodesFields_bare {op a : Byte} {v : Word} {i : Instr} (he : encode i = commandWord op 0 0)
    (hw : i.WellFormed) (hz : (a == 0 && v == 0) = true) : EncodesFields op a v i := by
  obtain ⟨rfl, rfl⟩ : a = 0 ∧ v = 0 := by simpa using hz
  exact ⟨he, hw⟩

theorem encodesFields_length {op a : Byte} {v : Word} {i : Instr}
    (he : encode i = commandWord op 0 (BitVec.ofNat 16 v.toNat)) (hw : i.wellFormed = fitsV v.toNat)
    (hz : (a == 0) = true) : EncodesFields op a v i := by
  obtain rfl : a = 0 := by simpa using hz
  exact ⟨by rw [he, BitVec.ofNat_toNat, BitVec.setWidth_eq], hw.trans (decide_eq_true v.isLt)⟩

theorem encodesFields_number {op a : Byte} {v : Word} {i : Instr}
    (he : encode i = commandWord op (BitVec.ofNat 8 a.toNat) v) (hw : i.wellFormed = fitsA a.toNat) :
    EncodesFields op a v i :=
  ⟨by rw [he, BitVec.ofNat_toNat, BitVec.setWidth_eq], hw.trans (decide_eq_true a.isLt)⟩

/-- A V whose high byte is zero is its low byte (R81). -/
theorem setWidth_extract_low {v : Word} (h : (v.extractLsb' 8 8 == 0) = true) :
    (v.extractLsb' 0 8).setWidth 16 = v := by
  have hhigh : v.toNat / 256 % 256 = 0 := by
    simpa [Nat.shiftRight_eq_div_pow] using congrArg BitVec.toNat (eq_of_beq h)
  apply BitVec.eq_of_toNat_eq
  simp only [BitVec.toNat_setWidth, BitVec.extractLsb'_toNat, Nat.shiftRight_zero]
  omega

/-- What the decoder can answer (R81, R82, R92): for an opcode of the table a command that the word encodes, if the
must-be-zero fields are zero, and for every other opcode the refusal with reason 1. -/
theorem decodeFields_cases (op a : Byte) (v : Word) :
    (op ∈ opcodes ∧ ∃ z i, decodeFields op a v = requireZero z i ∧ (z = true → EncodesFields op a v i)) ∨
    (op ∉ opcodes ∧ decodeFields op a v = .rejected .reservedOpcode) := by
  by_cases hop : op ∈ opcodes
  · refine .inl ⟨hop, ?_⟩
    simp only [opcodes, List.cons_append, List.nil_append, List.mem_cons, List.not_mem_nil, or_false] at hop
    rcases hop with rfl | rfl | rfl | rfl | rfl | rfl | rfl | rfl | rfl | rfl | rfl | rfl | rfl | rfl | rfl | rfl |
      rfl | rfl
    · exact ⟨_, .nop, rfl, encodesFields_bare rfl rfl⟩
    · exact ⟨_, .crcInit, rfl, encodesFields_bare rfl rfl⟩
    · exact ⟨_, .crcUpd a, rfl, fun h => ⟨by rw [eq_of_beq h]; rfl, rfl⟩⟩
    · exact ⟨_, .crcBuf v.toNat, rfl, encodesFields_length rfl rfl⟩
    · exact ⟨_, .crcAppend v.toNat, rfl, encodesFields_length rfl rfl⟩
    · exact ⟨_, .crcCheck v.toNat, rfl, encodesFields_length rfl rfl⟩
    · exact ⟨_, .stb a.toNat _, rfl,
        fun h => encodesFields_number (by rw [encode, setWidth_extract_low h]) rfl⟩
    · exact ⟨_, .ldb a.toNat, rfl, fun h => encodesFields_number (by rw [eq_of_beq h]; rfl) rfl⟩
    · exact ⟨true, .wrreg a.toNat v, rfl, fun _ => encodesFields_number rfl rfl⟩
    · exact ⟨_, .rdreg a.toNat, rfl, fun h => encodesFields_number (by rw [eq_of_beq h]; rfl) rfl⟩
    · exact ⟨_, .sendA, rfl, encodesFields_bare rfl rfl⟩
    · exact ⟨_, .sendS, rfl, encodesFields_bare rfl rfl⟩
    · exact ⟨_, .getState, rfl, encodesFields_bare rfl rfl⟩
    · exact ⟨_, .isReady, rfl, encodesFields_bare rfl rfl⟩
    · exact ⟨_, .silDef, rfl, encodesFields_bare rfl rfl⟩
    · exact ⟨_, .poll, rfl, encodesFields_bare rfl rfl⟩
    · exact ⟨_, .rstSoft, rfl, encodesFields_bare rfl rfl⟩
    · exact ⟨_, .rstAbort, rfl, encodesFields_bare rfl rfl⟩
  · refine .inr ⟨hop, ?_⟩
    have hnat : op.toNat ∉ opcodes.map BitVec.toNat :=
      fun h => hop ((List.mem_map_of_injective fun _ _ => BitVec.eq_of_toNat_eq).1 h)
    unfold decodeFields
    split
    case h_19 => rfl
    all_goals
      rename_i hk
      rw [hk] at hnat
      exact absurd (by decide) hnat

/-- Settles O3: the row of the decoder that answered has the word's own fields for its command's. -/
theorem encodeOfDecodeIsTheWord : Obligations.EncodeOfDecodeIsTheWord := by
  intro w i h
  rcases decodeFields_cases (opField w) (aField w) (vField w) with ⟨-, z, j, hrow, henc⟩ | ⟨-, hrow⟩
  · obtain ⟨hz, rfl⟩ := requireZero_eq_instr_iff.1 (hrow.symm.trans h)
    obtain ⟨he, hw⟩ := henc hz
    exact ⟨he.trans (commandWord_fields w), hw⟩
  · cases hrow.symm.trans h

/-! ### The mask and match rows (R82) -/

theorem commandWord_inj {op op' a a' : Byte} {v v' : Word} (h : commandWord op a v = commandWord op' a' v') :
    op = op' ∧ a = a' ∧ v = v' :=
  ⟨by simpa using congrArg opField h, by simpa using congrArg aField h, by simpa using congrArg vField h⟩

/-- A word in a row: its opcode is the row's, and the masked bits of A and V are zero. -/
theorem fields_of_mask {w : Word32} {op ma : Byte} {mv : Word}
    (h : w &&& commandWord 0xFF ma mv = commandWord op 0 0) :
    opField w = op ∧ aField w &&& ma = 0 ∧ vField w &&& mv = 0 := by
  rw [← commandWord_fields w, commandWord_and] at h
  obtain ⟨hop, ha, hv⟩ := commandWord_inj h
  exact ⟨BitVec.and_allOnes.symm.trans hop, ha, hv⟩

theorem decode_of_opField {w : Word32} {op : Byte} (h : opField w = op) :
    decode w = decodeFields op (aField w) (vField w) := by rw [decode, h]

theorem toNat_aField (w : Word32) : (aField w).toNat = w.toNat / 65536 % 256 := by
  rw [aField, BitVec.extractLsb'_toNat, Nat.shiftRight_eq_div_pow]

theorem toNat_vField (w : Word32) : (vField w).toNat = w.toNat % 65536 := BitVec.extractLsb'_toNat ..

/-- A V that is zero under the mask 0xFF00 has a zero high byte (R81). -/
theorem extract_high_of_mask {v : Word} (h : v &&& 0xFF00 = 0) : v.extractLsb' 8 8 = 0 := by
  have hmask : ∀ i < 8, (0xFF00 : Word).getLsbD (8 + i) = true := by decide
  refine BitVec.eq_of_getLsbD_eq fun i hi => ?_
  have hbit : (v &&& 0xFF00).getLsbD (8 + i) = false := by rw [h]; exact BitVec.getLsbD_zero
  rw [BitVec.getLsbD_and, hmask i hi, Bool.and_true] at hbit
  rw [BitVec.getLsbD_extractLsb', hbit, Bool.and_false]
  exact BitVec.getLsbD_zero.symm

/-- A command's own words are in its row, so a row needs only the other direction. -/
theorem mask_iff_decode {i : Instr} {w : Word32} (hrow : Laws.EncodesInRow.Statement i)
    (h : w &&& (opcodeRow i).mask = (opcodeRow i).pattern → decode w = .instr i) :
    w &&& (opcodeRow i).mask = (opcodeRow i).pattern ↔ decode w = .instr i := by
  refine ⟨h, fun hd => ?_⟩
  obtain ⟨rfl, -⟩ := encodeOfDecodeIsTheWord w i hd
  exact hrow

/-- The row of a command without operands is one word. -/
theorem bare_mask_iff_decode {i : Instr} {p w : Word32} (h : decode p = .instr i) :
    w &&& 0xFFFFFFFF = p ↔ decode w = .instr i := by
  have hall : w &&& 0xFFFFFFFF = w := BitVec.and_allOnes
  rw [hall]
  refine ⟨fun e => e ▸ h, fun hd => ?_⟩
  exact (encodeOfDecodeIsTheWord w i hd).1.symm.trans (encodeOfDecodeIsTheWord p i h).1

/-- The row of a command whose operand is the length in V. -/
theorem length_mask_iff_decode {i : Nat → Instr} {op : Byte} {w : Word32}
    (hrow : ∀ n, Laws.EncodesInRow.Statement (i n))
    (hcode : ∀ n, opcodeRow (i n) = ⟨0xFFFF0000, commandWord op 0 0⟩)
    (hdec : ∀ v, decodeFields op 0 v = .instr (i v.toNat)) :
    w &&& 0xFFFF0000 = commandWord op 0 0 ↔ decode w = .instr (i (w.toNat % 65536)) := by
  have key := mask_iff_decode (w := w) (hrow (w.toNat % 65536)) fun h => by
    rw [hcode] at h
    obtain ⟨hop, ha, -⟩ := fields_of_mask (ma := 0xFF) (mv := 0) h
    have ha0 : aField w = 0 := BitVec.and_allOnes.symm.trans ha
    rw [decode_of_opField hop, ha0, hdec, toNat_vField]
  rwa [hcode] at key

/-- The row of a command whose operand is the number in A. -/
theorem number_mask_iff_decode {i : Nat → Instr} {op : Byte} {w : Word32}
    (hrow : ∀ n, Laws.EncodesInRow.Statement (i n))
    (hcode : ∀ n, opcodeRow (i n) = ⟨0xFF00FFFF, commandWord op 0 0⟩)
    (hdec : ∀ a, decodeFields op a 0 = .instr (i a.toNat)) :
    w &&& 0xFF00FFFF = commandWord op 0 0 ↔ decode w = .instr (i (w.toNat / 65536 % 256)) := by
  have key := mask_iff_decode (w := w) (hrow (w.toNat / 65536 % 256)) fun h => by
    rw [hcode] at h
    obtain ⟨hop, -, hv⟩ := fields_of_mask (ma := 0) (mv := 0xFFFF) h
    have hv0 : vField w = 0 := BitVec.and_allOnes.symm.trans hv
    rw [decode_of_opField hop, hv0, hdec, toNat_aField]
  rwa [hcode] at key

theorem crcUpd_mask_iff_decode (w : Word32) :
    w &&& 0xFF00FFFF = 0x02000000 ↔ decode w = .instr (.crcUpd (w.extractLsb' 16 8)) := by
  refine mask_iff_decode (Laws.EncodesInRow.crcUpd (w.extractLsb' 16 8)) fun h => ?_
  obtain ⟨hop, -, hv⟩ := fields_of_mask (op := 0x02) (ma := 0) (mv := 0xFFFF) h
  have hv0 : vField w = 0 := BitVec.and_allOnes.symm.trans hv
  rw [decode_of_opField hop, hv0]
  rfl

theorem stb_mask_iff_decode (w : Word32) :
    w &&& 0xFF00FF00 = 0x10000000 ↔ decode w = .instr (.stb (w.toNat / 65536 % 256) (w.extractLsb' 0 8)) := by
  refine mask_iff_decode (Laws.EncodesInRow.stb (w.toNat / 65536 % 256) (w.extractLsb' 0 8)) fun h => ?_
  obtain ⟨hop, -, hv⟩ := fields_of_mask (op := 0x10) (ma := 0) (mv := 0xFF00) h
  have hlow : (vField w).extractLsb' 0 8 = w.extractLsb' 0 8 := by
    apply BitVec.eq_of_toNat_eq
    simp only [BitVec.extractLsb'_toNat, Nat.shiftRight_zero, toNat_vField]
    omega
  rw [decode_of_opField hop, ← toNat_aField, ← hlow]
  exact requireZero_eq_instr_iff.2 ⟨beq_iff_eq.2 (extract_high_of_mask hv), rfl⟩

theorem wrreg_mask_iff_decode (w : Word32) :
    w &&& 0xFF000000 = 0x12000000 ↔ decode w = .instr (.wrreg (w.toNat / 65536 % 256) (w.extractLsb' 0 16)) := by
  refine mask_iff_decode (Laws.EncodesInRow.wrreg (w.toNat / 65536 % 256) (w.extractLsb' 0 16)) fun h => ?_
  obtain ⟨hop, -, -⟩ := fields_of_mask (op := 0x12) (ma := 0) (mv := 0) h
  rw [decode_of_opField hop, ← toNat_aField]
  rfl

/-- Settles O4: row by row; the words of a command are its encoding, which lies in the row. -/
theorem wordIsTheCommandIffMaskMatches : Obligations.WordIsTheCommandIffMaskMatches := fun w =>
  ⟨bare_mask_iff_decode rfl, bare_mask_iff_decode rfl, crcUpd_mask_iff_decode w,
    length_mask_iff_decode (op := 0x03) Laws.EncodesInRow.crcBuf (fun _ => rfl) fun _ => rfl,
    length_mask_iff_decode (op := 0x04) Laws.EncodesInRow.crcAppend (fun _ => rfl) fun _ => rfl,
    length_mask_iff_decode (op := 0x05) Laws.EncodesInRow.crcCheck (fun _ => rfl) fun _ => rfl,
    stb_mask_iff_decode w,
    number_mask_iff_decode (op := 0x11) Laws.EncodesInRow.ldb (fun _ => rfl) fun _ => rfl,
    wrreg_mask_iff_decode w,
    number_mask_iff_decode (op := 0x13) Laws.EncodesInRow.rdreg (fun _ => rfl) fun _ => rfl,
    bare_mask_iff_decode rfl, bare_mask_iff_decode rfl, bare_mask_iff_decode rfl, bare_mask_iff_decode rfl,
    bare_mask_iff_decode rfl, bare_mask_iff_decode rfl, bare_mask_iff_decode rfl, bare_mask_iff_decode rfl⟩

/-! ### Refused words (R81, R91, R92) -/

theorem refusedWord_of_decode {w : Word32} {r : Reason} (h : decode w = .rejected r) :
    RefusedWord w (reasonCode r).toNat := by
  intro s
  rw [step_scheduled, runEvent, runCommand, h]
  exact refuse_eq_refusedFor r s

/-- Settles O5: the decoder's reserved case, whatever the operands. -/
theorem reservedOpcodesAreRefusedWithReasonOne : Obligations.ReservedOpcodesAreRefusedWithReasonOne := by
  intro w hop
  rcases decodeFields_cases (opField w) (aField w) (vField w) with ⟨hmem, -⟩ | ⟨-, hrow⟩
  · exact absurd hmem hop
  · exact refusedWord_of_decode (r := .reservedOpcode) hrow

/-- Settles O6: a row whose must-be-zero fields are zero encodes the word, so they are not, and WRREG has none. -/
theorem nonzeroUnusedFieldsAreRefusedWithReasonTwo : Obligations.NonzeroUnusedFieldsAreRefusedWithReasonTwo := by
  intro w hop hnone
  have hnodec : ∀ i, decode w ≠ .instr i := fun i h => hnone i (encodeOfDecodeIsTheWord w i h).1
  refine ⟨fun h12 => hnodec _ (decode_of_opField h12), ?_⟩
  rcases decodeFields_cases (opField w) (aField w) (vField w) with ⟨-, z, i, hrow, -⟩ | ⟨hmem, -⟩
  · cases z with
    | true => exact absurd hrow (hnodec i)
    | false => exact refusedWord_of_decode (r := .mustBeZero) hrow
  · exact absurd hop hmem

/-- Settles O1: the eighteen words of the table run through the decoder. -/
theorem sampleWordsDecodeToTheirCommands : Obligations.SampleWordsDecodeToTheirCommands := by
  refine ⟨?_, ?_, ?_⟩ <;> decide

end Sys2Proof
end

section
/-! SUPPORT. The one answer of a command (R84, R90) and the words of a completion record (R88). -/

namespace Sys2Proof

open Sys2Proof.Machine Sys2Proof.Claims

/-! ### The numeric value of a word put together from fields -/

/-- Two fields side by side: the high one counts in units of the low one's size. -/
theorem toNat_append_eq_add {n m : Nat} (x : BitVec n) (y : BitVec m) :
    (x ++ y).toNat = x.toNat * 2 ^ m + y.toNat := by
  rw [BitVec.toNat_append, ← Nat.shiftLeft_add_eq_or_of_lt y.isLt, Nat.shiftLeft_eq]

theorem toNat_bit (b : Bool) : (bit b).toNat = b.toNat := BitVec.toNat_ofBool b

theorem toNat_responseWord (err : Bool) (v : Word) :
    (responseWord err v).toNat = err.toNat * 2 ^ 31 + v.toNat := by
  have h : (responseWord err v).toNat = (bit err ++ (0 : BitVec 15)).toNat * 2 ^ 16 + v.toNat :=
    toNat_append_eq_add _ v
  rw [h, toNat_append_eq_add, toNat_bit]
  simp only [BitVec.ofNat_eq_ofNat, BitVec.toNat_ofNat]
  omega

/-! ### Responses (R84, R90, R91) -/

/-- ERR is bit 31 (R84). -/
theorem getLsbD_responseWord_err (err : Bool) (v : Word) : (responseWord err v).getLsbD 31 = err := by
  have h : responseWord err v = ((bit err ++ (0 : BitVec 15) : BitVec 16) ++ v : BitVec 32) := rfl
  rw [h, BitVec.getLsbD_append, BitVec.getLsbD_append]
  simp [bit]

/-- Bits 30:16 are zero (R84). -/
theorem extract_responseWord_middle (err : Bool) (v : Word) : (responseWord err v).extractLsb' 16 15 = 0 := by
  apply BitVec.eq_of_toNat_eq
  have hv := v.isLt
  rw [BitVec.extractLsb'_toNat, toNat_responseWord, Nat.shiftRight_eq_div_pow]
  simp
  omega

/-- VAL is bits 15:0 (R84). -/
theorem toNat_responseWord_mod (err : Bool) (v : Word) : (responseWord err v).toNat % 65536 = v.toNat := by
  have hv := v.isLt
  rw [toNat_responseWord]
  omega

/-- The reasons are numbered 1 to 8 (R91). -/
theorem reasonCode_bounds (r : Reason) : 1 ≤ (reasonCode r).toNat ∧ (reasonCode r).toNat ≤ 8 := by
  cases r <;> decide

/-- A next state is a refusal of `s`, or an acceptance after steps that answered nothing (R84, R90). -/
def AnswersOnce (s : State) (r : Res) : Prop :=
  ∀ t, r = .next t →
    (∃ reason, t = respond true (reasonCode reason) s) ∨ ∃ u v, u.rsp = s.rsp ∧ t = respond false v u

theorem answersOnce_accept {s u : State} (v : Word) (h : u.rsp = s.rsp) : AnswersOnce s (accept v u) :=
  fun _ ht => .inr ⟨u, v, h, by cases ht; rfl⟩

theorem answersOnce_refuse (s : State) (r : Reason) : AnswersOnce s (refuse r s) :=
  fun _ ht => .inl ⟨r, by cases ht; rfl⟩

theorem answersOnce_fault (s : State) (e : Fault) : AnswersOnce s (.fault e) := fun _ ht => by cases ht

theorem answersOnce_ite {c : Prop} [Decidable c] {s : State} {r₁ r₂ : Res} (h₁ : AnswersOnce s r₁)
    (h₂ : AnswersOnce s r₂) : AnswersOnce s (if c then r₁ else r₂) := by
  split
  · exact h₁
  · exact h₂

/-- A poll answers nothing itself (R132). -/
theorem answersOnce_pollOnce {s : State} {f : State → Res} (hf : ∀ u, u.rsp = s.rsp → AnswersOnce s (f u)) :
    AnswersOnce s (andThen (pollOnce s) f) := by
  intro t ht
  obtain ⟨u, hu, hfu⟩ := andThen_eq_next ht
  have hrsp := congrArg State.rsp (pollOnce_frame hu)
  exact hf u hrsp t hfu

theorem rsp_of_writeReg {r : Reg} {v : Word} {s t : State} (h : writeReg r v s = .ok t) : t.rsp = s.rsp := by
  cases hostWrite_of_writeReg h <;> rfl

/-- Every command is refused before it changes anything, or accepted with one response (R84, R90). -/
theorem exec_answersOnce (i : Instr) (s : State) : AnswersOnce s (exec i s) := by
  cases i with
  | nop | crcInit | crcUpd | isReady | silDef | rstAbort => exact answersOnce_accept _ rfl
  | crcBuf | crcAppend | crcCheck | stb | ldb =>
    exact answersOnce_ite (answersOnce_refuse _ _) (answersOnce_accept _ rfl)
  | rstSoft => exact answersOnce_ite (answersOnce_accept _ rfl) (answersOnce_accept _ rfl)
  | getState | poll => exact answersOnce_pollOnce fun _ hu => answersOnce_accept _ hu
  | wrreg reg value =>
    simp only [exec, execWrreg]
    split
    · exact answersOnce_refuse _ _
    · split
      · exact answersOnce_refuse _ _
      · exact answersOnce_accept _ (rsp_of_writeReg ‹_›)
  | rdreg reg =>
    simp only [exec, execRdreg]
    split
    · exact answersOnce_refuse _ _
    · split
      · exact answersOnce_fault _ _
      · exact answersOnce_accept _ rfl
  | sendA =>
    simp only [exec, execSendA]
    split
    · exact answersOnce_refuse _ _
    · exact answersOnce_ite (answersOnce_accept _ rfl)
        (answersOnce_ite (answersOnce_fault _ _) (answersOnce_accept _ rfl))
  | sendS =>
    simp only [exec, execSendS]
    split
    · exact answersOnce_refuse _ _
    · exact answersOnce_accept _ rfl

theorem runCommand_answersOnce (w : Word32) (s : State) : AnswersOnce s (runCommand w s) := by
  unfold runCommand
  split
  · exact exec_answersOnce _ s
  · exact answersOnce_refuse s _

/-- No step of another agent but power-on reset touches the response trace (R84, R218). -/
theorem rsp_of_runEvent {e : Event} {s t : State} (hcmd : ∀ w, e ≠ .command w) (hpor : e ≠ .por)
    (h : runEvent e s = .next t) : t.rsp = s.rsp := by
  cases e with
  | command w => exact absurd rfl (hcmd w)
  | tick | rxIn => cases h; rfl
  | txOut =>
    cases h
    obtain ⟨q, l, hq⟩ := txOutStep_eq s
    rw [hq]
  | dispGrant =>
    rcases grantStep_cases h with rfl | ⟨-, -, -, rfl⟩
    · rfl
    · rfl
  | dispComplete =>
    cases h
    rcases completeStep_cases s with hc | ⟨-, k, c, m, hc⟩
    · rw [hc]
    · rw [hc]; rfl
  | por => exact absurd rfl hpor

/-- Settles O8: `AnswersOnce` for every command, and the trace's frame for the other agents. -/
theorem everyCommandAnswersOneResponseWord : Obligations.EveryCommandAnswersOneResponseWord := by
  refine ⟨fun w s t h => ?_, fun e s t hcmd hpor h => rsp_of_runEvent hcmd hpor h⟩
  rcases runCommand_answersOnce w s t h with ⟨reason, rfl⟩ | ⟨u, v, hu, rfl⟩
  · refine ⟨_, rfl, extract_responseWord_middle _ _, fun _ => ?_⟩
    rw [toNat_responseWord_mod]
    exact reasonCode_bounds reason
  · refine ⟨responseWord false v, by rw [respond_rsp, hu], extract_responseWord_middle _ _, fun herr => ?_⟩
    rw [getLsbD_responseWord_err] at herr
    cases herr

/-- Settles O9: an answer with ERR = 1 is not an acceptance, and a refusal is the old state with its response. -/
theorem refusedCommandsChangeNothing : Obligations.RefusedCommandsChangeNothing := by
  intro w r s t h hrsp herr
  rcases runCommand_answersOnce w s t h with ⟨reason, rfl⟩ | ⟨u, v, hu, rfl⟩
  · obtain rfl : responseWord true (reasonCode reason) = r := by simpa using hrsp
    rfl
  · obtain rfl : responseWord false v = r := by simpa [hu] using hrsp
    rw [getLsbD_responseWord_err] at herr
    cases herr

/-! ### The words of a completion record (R88, R61) -/

/-- Four bytes in a word, the first in the lowest bits (R61(e)). -/
def word4 (b0 b1 b2 b3 : Byte) : Word32 := b3 ++ b2 ++ b1 ++ b0

theorem extract_word4 (b0 b1 b2 b3 : Byte) {k : Nat} (hk : k < 4) :
    (word4 b0 b1 b2 b3).extractLsb' (8 * k) 8 = [b0, b1, b2, b3].getD k 0 := by
  have hnat : (word4 b0 b1 b2 b3).toNat =
      ((b3.toNat * 2 ^ 8 + b2.toNat) * 2 ^ 8 + b1.toNat) * 2 ^ 8 + b0.toNat := by
    have hlow : (word4 b0 b1 b2 b3).toNat = (b3 ++ b2 ++ b1).toNat * 2 ^ 8 + b0.toNat := toNat_append_eq_add _ b0
    rw [hlow, toNat_append_eq_add, toNat_append_eq_add]
  have h0 := b0.isLt
  have h1 := b1.isLt
  have h2 := b2.isLt
  have h3 := b3.isLt
  apply BitVec.eq_of_toNat_eq
  rw [BitVec.extractLsb'_toNat, hnat, Nat.shiftRight_eq_div_pow]
  interval_cases k <;> simp <;> omega

/-- Bytes that are left are packed four at a time, absent ones as zero. -/
theorem packBytes_of_ne_nil {bs : List Byte} (h : bs ≠ []) :
    packBytes bs = word4 (bs.getD 0 0) (bs.getD 1 0) (bs.getD 2 0) (bs.getD 3 0) :: packBytes (bs.drop 4) := by
  match bs, h with
  | [b], _ =>
    exact congrArg (fun z : BitVec 24 => [(z ++ b : Word32)])
      (show (0 : BitVec 24) = (0 : Byte) ++ (0 : Byte) ++ (0 : Byte) by decide)
  | [b, b'], _ =>
    exact congrArg (fun z : BitVec 16 => [(z ++ b' ++ b : Word32)])
      (show (0 : BitVec 16) = (0 : Byte) ++ (0 : Byte) by decide)
  | [_, _, _], _ => rfl
  | _ :: _ :: _ :: _ :: _, _ => rfl

theorem length_packBytes (bs : List Byte) : (packBytes bs).length = (bs.length + 3) / 4 := by
  induction bs using packBytes.induct with
  | case1 | case2 | case3 | case4 => simp [packBytes]
  | case5 b0 b1 b2 b3 rest ih => simp only [packBytes, List.length_cons, ih]; omega

/-- Byte `4*q + k` stands in word `q` at bits `8*k` (R61(e)). -/
theorem extract_packBytes {bs : List Byte} {q k : Nat} (hk : k < 4) (h : q < (packBytes bs).length) :
    (packBytes bs)[q].extractLsb' (8 * k) 8 = bs.getD (4 * q + k) 0 := by
  have hne : bs ≠ [] := by
    rintro rfl
    simp [packBytes] at h
  induction q generalizing bs with
  | zero =>
    simp only [packBytes_of_ne_nil hne, List.getElem_cons_zero, extract_word4 _ _ _ _ hk]
    interval_cases k <;> rfl
  | succ q ih =>
    simp only [packBytes_of_ne_nil hne, List.length_cons, Nat.add_lt_add_iff_right] at h
    have hrest : bs.drop 4 ≠ [] := by
      intro hnil
      simp [hnil, packBytes] at h
    simp only [packBytes_of_ne_nil hne, List.getElem_cons_succ, ih h hrest]
    rw [List.getD_eq_getElem?_getD, List.getElem?_drop, ← List.getD_eq_getElem?_getD]
    congr 1
    omega

/-- The bytes of a buffer by index, zero beyond the range. -/
theorem getD_bytes (m : Memory) (n i : Nat) :
    (Memory.bytes m 0 n).getD i 0 = if i < n then Memory.read m i else 0 := by
  rw [Memory.bytes_eq_map]
  split <;> simp [*]

/-- Word 0 of a record (R88). -/
def recordWord0 (c : Completion) : Word32 := kindCode c.kind ++ bit c.async ++ (0 : BitVec 5) ++ c.code ++ c.context

/-- Word 1 of a record with the message `m` (R88). -/
def recordWord1 (c : Completion) (m : Message) : Word32 := c.cb ++ (0 : BitVec 7) ++ bit m.crcCheck ++ m.txLength

theorem completionWords_of_none {c : Completion} (h : c.msg = none) :
    completionWords c = [recordWord0 c, c.cb ++ (0 : BitVec 24)] := by
  rw [completionWords, h]
  rfl

theorem completionWords_of_some {c : Completion} {m : Message} (h : c.msg = some m) :
    completionWords c = recordWord0 c :: recordWord1 c m :: m.rxLength.setWidth 32 ::
      packBytes (Memory.bytes m.adu 0 m.rxLength.toNat) := by
  have hlen : (0 : BitVec 16) ++ m.rxLength = m.rxLength.setWidth 32 := (BitVec.setWidth_eq_append (by omega)).symm
  rw [completionWords, h, ← hlen]
  rfl

theorem toNat_recordWord0 (c : Completion) :
    (recordWord0 c).toNat =
      (kindCode c.kind).toNat * 2 ^ 30 + flagAt c.async 29 + c.code.toNat * 2 ^ 16 + c.context.toNat := by
  refine (toNat_append_eq_add (kindCode c.kind ++ bit c.async ++ (0 : BitVec 5) ++ c.code) c.context).trans ?_
  rw [toNat_append_eq_add, toNat_append_eq_add, toNat_append_eq_add, toNat_bit]
  cases c.async <;> simp [flagAt] <;> omega

theorem toNat_recordWord1 (c : Completion) (m : Message) :
    (recordWord1 c m).toNat = c.cb.toNat * 2 ^ 24 + flagAt m.crcCheck 16 + m.txLength.toNat := by
  refine (toNat_append_eq_add (c.cb ++ (0 : BitVec 7) ++ bit m.crcCheck) m.txLength).trans ?_
  rw [toNat_append_eq_add, toNat_append_eq_add, toNat_bit]
  cases m.crcCheck <;> simp [flagAt] <;> omega

/-- Settles O50: the two leading words by their fields, the message's bytes by `extract_packBytes`. -/
theorem recordsSerialiseByTheLayout : Obligations.RecordsSerialiseByTheLayout := by
  intro c
  have hword0 := toNat_recordWord0 c
  have hkind : (kindCode c.kind).toNat =
      match c.kind with | .reply => 0 | .timeout => 1 | .devExc => 2 | .crcFail => 3 := by cases c.kind <;> rfl
  rw [hkind] at hword0
  cases hmsg : c.msg with
  | none =>
    refine ⟨_, _, _, completionWords_of_none hmsg, hword0, fun _ => ⟨?_, rfl⟩, fun m hm => by cases hm⟩
    exact (toNat_append_eq_add c.cb (0 : BitVec 24)).trans (Nat.add_zero _)
  | some m =>
    refine ⟨_, _, _, completionWords_of_some hmsg, hword0, fun hm => (by cases hm), fun m' hm => ?_⟩
    cases hm
    refine ⟨toNat_recordWord1 c m, _, rfl, by rw [length_packBytes, Memory.length_bytes], fun i h => ?_⟩
    rw [extract_packBytes (Nat.mod_lt i (by omega)) h, Nat.div_add_mod, getD_bytes]

end Sys2Proof
end

section
/-! SUPPORT. The CRC codec (R110 to R113, R119): one right shift is linear over XOR and injective, hence so is a byte
step; the residue test and the single-bit errors follow from the injectivity. Then the five CRC commands (R114 to
R118). -/

namespace Sys2Proof

open Sys2Proof.Machine Sys2Proof.Claims

/-! ### The shifts of a byte step (R111) -/

theorem crcShift_eq_xor (c : Word) : crcShift c = c >>> 1 ^^^ if c.getLsbD 0 then 0xA001 else 0 := by
  unfold crcShift
  split
  · rfl
  · exact BitVec.xor_zero.symm

theorem crcShift_xor (c d : Word) : crcShift (c ^^^ d) = crcShift c ^^^ crcShift d := by
  have hconst : ∀ p q : Bool, (if p ^^ q then 0xA001 else 0 : Word) =
      (if p then 0xA001 else 0) ^^^ (if q then 0xA001 else 0) := by decide
  simp only [crcShift_eq_xor, BitVec.getLsbD_xor, BitVec.ushiftRight_xor_distrib, hconst]
  ac_rfl

theorem crcShifts_xor (n : Nat) (c d : Word) : crcShifts n (c ^^^ d) = crcShifts n c ^^^ crcShifts n d := by
  induction n generalizing c d with
  | zero => rfl
  | succ n ih => rw [crcShifts, crcShift_xor, ih]; rfl

/-- The bit that falls out comes back as the top bit of the constant. -/
theorem getLsbD_crcShift_top (c : Word) : (crcShift c).getLsbD 15 = c.getLsbD 0 := by
  have htop : (c >>> 1).getLsbD 15 = false := by simp
  rw [crcShift_eq_xor, BitVec.getLsbD_xor, htop]
  cases c.getLsbD 0 <;> rfl

theorem crcShift_injective : Function.Injective crcShift := by
  intro c d h
  have hlow : c.getLsbD 0 = d.getLsbD 0 := by rw [← getLsbD_crcShift_top, h, getLsbD_crcShift_top]
  have hhigh : c >>> 1 = d >>> 1 := by
    rwa [crcShift_eq_xor, crcShift_eq_xor, hlow, BitVec.xor_left_inj] at h
  refine BitVec.eq_of_getLsbD_eq fun i _ => ?_
  cases i with
  | zero => exact hlow
  | succ i => simpa [Nat.add_comm 1] using congrArg (·.getLsbD i) hhigh

theorem crcShifts_injective (n : Nat) : Function.Injective (crcShifts n) := by
  induction n with
  | zero => exact Function.injective_id
  | succ n ih => exact ih.comp crcShift_injective

/-- As long as only zeros fall out, the shifts are a plain shift. -/
theorem crcShifts_of_low_zero {n : Nat} {c : Word} (h : ∀ i < n, c.getLsbD i = false) : crcShifts n c = c >>> n := by
  induction n generalizing c with
  | zero => rfl
  | succ n ih =>
    have hshift : crcShift c = c >>> 1 := by rw [crcShift, h 0 n.succ_pos]; rfl
    rw [crcShifts, hshift, ih fun i hi => by simpa using h (1 + i) (by omega), ← BitVec.shiftRight_add, Nat.add_comm]

/-! ### A byte step (R111, R119) -/

theorem crcStep_xor (c d : Word) (a b : Byte) : crcStep (c ^^^ d) (a ^^^ b) = crcStep c a ^^^ crcStep d b := by
  rw [crcStep, crcStep, crcStep, ← crcShifts_xor, BitVec.setWidth_xor]
  congr 1
  ac_rfl

/-- The byte enters only through the XOR (R119(c)). -/
theorem crcStep_eq_step_zero (c : Word) (b : Byte) : crcStep c b = crcStep (c ^^^ b.setWidth 16) 0 := by
  simp [crcStep]

theorem crcStep_eq_iff {c d : Word} {a b : Byte} :
    crcStep c a = crcStep d b ↔ c ^^^ a.setWidth 16 = d ^^^ b.setWidth 16 := (crcShifts_injective 8).eq_iff

theorem crcStep_register_eq_iff {c d : Word} {b : Byte} : crcStep c b = crcStep d b ↔ c = d := by
  rw [crcStep_eq_iff, BitVec.xor_left_inj]

theorem crcStep_byte_eq_iff {c : Word} {a b : Byte} : crcStep c a = crcStep c b ↔ a = b := by
  rw [crcStep_eq_iff, BitVec.xor_right_inj]
  refine ⟨fun h => ?_, congrArg _⟩
  simpa using congrArg (BitVec.setWidth 8) h

theorem toNat_crcShift (c : Word) : (crcShift c).toNat = halvedByRule c.toNat := by
  have hlow : c.getLsbD 0 = decide (c.toNat % 2 = 1) := by rw [BitVec.getLsbD, Nat.testBit_zero]
  have hhalf : (c >>> 1).toNat = c.toNat / 2 := by rw [BitVec.toNat_ushiftRight, Nat.shiftRight_one]
  simp only [crcShift, halvedByRule, hlow, decide_eq_true_eq]
  split
  · rw [BitVec.toNat_xor, hhalf]; rfl
  · exact hhalf

/-- The turns of R111's loop on numbers are the shifts, whatever the loop counts with. -/
theorem toNat_crcShifts (turns : List Nat) (c : Word) :
    (crcShifts turns.length c).toNat = turns.foldl (fun r _ => halvedByRule r) c.toNat := by
  induction turns generalizing c with
  | nil => rfl
  | cons k turns ih => rw [List.length_cons, crcShifts, ih, toNat_crcShift, List.foldl_cons]

theorem toNat_crcStep (c : Word) (b : Byte) : (crcStep c b).toNat = crcStepByRule c.toNat b.toNat := by
  have hwide : (b.setWidth 16).toNat = b.toNat := BitVec.toNat_setWidth_of_le (by decide)
  rw [crcStepByRule, ← hwide, ← BitVec.toNat_xor]
  exact toNat_crcShifts (List.range 8) (c ^^^ b.setWidth 16)

/-- Settles O10: the loop turn by turn, the sixteen values by computation, the laws from the shifts'. -/
theorem crcStepIsLinear : Obligations.CrcStepIsLinear :=
  ⟨toNat_crcStep, by decide, crcStep_eq_step_zero, crcStep_xor, rfl⟩

/-! ### The residue (R113, R119(d)) -/

theorem append_eq_shift_xor (b a : Byte) : (b ++ a : Word) = b.setWidth 16 <<< 8 ^^^ a.setWidth 16 := by
  refine BitVec.eq_of_getLsbD_eq fun i hi => ?_
  simp only [BitVec.getLsbD_append, BitVec.getLsbD_xor, BitVec.getLsbD_shiftLeft, BitVec.getLsbD_setWidth, hi]
  by_cases h : i < 8
  · simp [h]
  · simp [h, show i - 8 < 16 by omega, BitVec.getLsbD_of_ge a i (by omega)]

theorem append_eq_iff {c : Word} {a b : Byte} : c = b ++ a ↔ a = lowByte c ∧ b = highByte c := by
  have ha := a.isLt
  have hb := b.isLt
  have hc := c.isLt
  have happ : (b ++ a : Word).toNat = b.toNat * 2 ^ 8 + a.toNat := toNat_append_eq_add b a
  simp only [← BitVec.toNat_inj, happ, lowByte, highByte, BitVec.toNat_setWidth, BitVec.toNat_ushiftRight,
    Nat.shiftRight_eq_div_pow]
  omega

/-- A register with a zero low byte is shifted down whole. -/
theorem crcShifts_high_byte (b : Byte) : crcShifts 8 (b.setWidth 16 <<< 8) = b.setWidth 16 := by
  rw [crcShifts_of_low_zero fun i hi => by simp [hi]]
  refine BitVec.eq_of_getLsbD_eq fun i hi => ?_
  simp only [BitVec.getLsbD_ushiftRight, BitVec.getLsbD_shiftLeft, BitVec.getLsbD_setWidth, Nat.add_sub_cancel_left]
  by_cases h : i < 8
  · simp [h, show 8 + i < 16 by omega]
  · simp [BitVec.getLsbD_of_ge b i (by omega)]

/-- The second step ends at 0 only from the register that is its byte, and the first step reaches that one only from the
two bytes in a row. -/
theorem crcStep_crcStep_eq_zero_iff {c : Word} {a b : Byte} :
    crcStep (crcStep c a) b = 0 ↔ a = lowByte c ∧ b = highByte c := by
  have hzero : crcStep (b.setWidth 16) b = 0 := by rw [crcStep, BitVec.xor_self]; rfl
  calc crcStep (crcStep c a) b = 0
      ↔ crcStep c a = b.setWidth 16 := by rw [← hzero, crcStep_register_eq_iff]
    _ ↔ crcShifts 8 (c ^^^ a.setWidth 16) = crcShifts 8 (b.setWidth 16 <<< 8) := by rw [crcShifts_high_byte, crcStep]
    _ ↔ c ^^^ a.setWidth 16 = b.setWidth 16 <<< 8 := (crcShifts_injective 8).eq_iff
    _ ↔ c = b ++ a := by
      rw [append_eq_shift_xor, ← BitVec.xor_left_inj (z := a.setWidth 16), BitVec.xor_assoc, BitVec.xor_self,
        BitVec.xor_zero]
    _ ↔ a = lowByte c ∧ b = highByte c := append_eq_iff

theorem crc16_append_pair (bs : List Byte) (a b : Byte) :
    crc16 (bs ++ [a, b]) = crcStep (crcStep (crc16 bs) a) b := by simp [crc16]

theorem lo8_eq_lowByte (c : Word) : lo8 c = lowByte c := BitVec.setWidth_eq_extractLsb' (by decide) |>.symm

theorem hi8_eq_highByte (c : Word) : hi8 c = highByte c := by
  apply BitVec.eq_of_toNat_eq
  simp [hi8, highByte]

theorem bytes_eq_inOrder (m : Memory) (n : Nat) : Memory.bytes m 0 n = inOrder m n := by
  simp [Memory.bytes_eq_map, inOrder]

theorem inOrder_succ (m : Memory) (n : Nat) : inOrder m (n + 1) = inOrder m n ++ [Memory.read m n] := by
  simp [inOrder, List.range_succ]

theorem length_inOrder (m : Memory) (n : Nat) : (inOrder m n).length = n := by simp [inOrder]

/-- A frame as the bytes before its CRC and the last two. -/
theorem inOrder_add_two (m : Memory) (n : Nat) :
    inOrder m (n + 2) = inOrder m n ++ [Memory.read m n, Memory.read m (n + 1)] := by
  rw [inOrder_succ, inOrder_succ, List.append_assoc, List.singleton_append]

theorem crcValid_add_two_iff (m : Memory) (n : Nat) :
    crcValid m (n + 2) = true ↔
      Memory.read m n = lowByte (crc16 (inOrder m n)) ∧ Memory.read m (n + 1) = highByte (crc16 (inOrder m n)) := by
  simp [crcValid, bytes_eq_inOrder, lo8_eq_lowByte, hi8_eq_highByte]

theorem crcValid_iff_residue {m : Memory} {len : Nat} (h : 2 ≤ len) :
    crcValid m len = true ↔ crc16 (inOrder m len) = 0 := by
  obtain ⟨n, rfl⟩ := Nat.exists_eq_add_of_le' h
  rw [crcValid_add_two_iff, inOrder_add_two, crc16_append_pair, crcStep_crcStep_eq_zero_iff]

theorem crcValid_iff_frameValid {m : Memory} {len : Nat} (h : 2 ≤ len) :
    crcValid m len = true ↔ FrameValid (inOrder m len) := by
  obtain ⟨n, rfl⟩ := Nat.exists_eq_add_of_le' h
  have hlen := length_inOrder m n
  simp [FrameValid, crcValid_add_two_iff, inOrder_add_two, hlen]

/-- Settles O11: two byte steps with the register's own bytes end at 0, and with no others. -/
theorem appendedCrcLeavesResidueZero : Obligations.AppendedCrcLeavesResidueZero :=
  ⟨fun bs => (crc16_append_pair bs _ _).trans (crcStep_crcStep_eq_zero_iff.2 ⟨rfl, rfl⟩),
    fun _ _ => crcValid_iff_residue⟩

/-! ### Errors in one byte (R119(f)) -/

theorem crc16_inOrder_succ (m : Memory) (n : Nat) :
    crc16 (inOrder m (n + 1)) = crcStep (crc16 (inOrder m n)) (Memory.read m n) := by simp [inOrder_succ, crc16]

/-- The registers part at the byte that differs and stay apart, as every later step is injective. -/
theorem crc16_inOrder_ne {m m' : Memory} {len i : Nat} (hi : i < len) (hne : Memory.read m' i ≠ Memory.read m i)
    (heq : ∀ j, j < len → j ≠ i → Memory.read m' j = Memory.read m j) :
    crc16 (inOrder m' len) ≠ crc16 (inOrder m len) := by
  induction len with
  | zero => omega
  | succ n ih =>
    rw [crc16_inOrder_succ, crc16_inOrder_succ]
    by_cases hin : i = n
    · have hpre : inOrder m' n = inOrder m n := List.map_congr_left fun j hj => by
        have hjn := List.mem_range.1 hj
        exact heq j (by omega) (by omega)
      rw [hpre, Ne, crcStep_byte_eq_iff]
      exact hin ▸ hne
    · rw [heq n (by omega) (Ne.symm hin), Ne, crcStep_register_eq_iff]
      exact ih (by omega) fun j hj => heq j (by omega)

/-- Settles O12: the two registers differ, so the residue is not 0 for both frames. -/
theorem singleBitErrorsFailValidation : Obligations.SingleBitErrorsFailValidation := by
  intro m m' len i k hlen hi hk hbit heq hvalid
  have hne : Memory.read m' i ≠ Memory.read m i := by
    have hone : ∀ k < 8, 1#8 <<< k ≠ 0#8 := by decide
    simpa [hbit] using hone k hk
  have hcrc := crc16_inOrder_ne hi hne heq
  rw [(crcValid_iff_residue hlen).1 hvalid] at hcrc
  exact Bool.eq_false_iff.2 fun hvalid' => hcrc ((crcValid_iff_residue hlen).1 hvalid')

/-! ### The encodings of the CRC commands (R81) -/

/-- A row of the decoder answers its command when its must-be-zero fields are zero, else reason 2. -/
theorem encoding_of_requireZero {w : Word32} {i : Instr} {z : Bool} {p : Prop} [Decidable p]
    (h : decode w = requireZero z i) (hz : z = true ↔ p) : if p then decode w = .instr i else RefusedWord w 2 := by
  split
  · rw [h, hz.2 ‹p›]; rfl
  · have hfalse : z = false := Bool.eq_false_iff.2 (hz.not.2 ‹¬p›)
    exact refusedWord_of_decode (r := .mustBeZero) (by rw [h, hfalse]; rfl)

theorem bareEncoding {op : Byte} {i : Instr} (h : ∀ a v, decodeFields op a v = requireZero (a == 0 && v == 0) i) :
    BareEncoding op i := fun _ hop =>
  encoding_of_requireZero ((decode_of_opField hop).trans (h _ _)) (by simp)

theorem lengthEncoding {op : Byte} {i : Nat → Instr}
    (h : ∀ a v, decodeFields op a v = requireZero (a == 0) (i v.toNat)) : LengthEncoding op i := fun _ hop =>
  encoding_of_requireZero ((decode_of_opField hop).trans (h _ _)) beq_iff_eq

/-! ### The CRC commands (R114 to R118) -/

theorem length_rsp_accepted (v : Word) (s : State) : (accepted v s).rsp.length = s.rsp.length + 1 :=
  List.length_append

theorem exec_crcInit (s : State) : exec .crcInit s = .next (accepted 0xFFFF { s with crc := 0xFFFF }) :=
  accept_eq_accepted _ _

theorem exec_crcUpd (b : Byte) (s : State) :
    exec (.crcUpd b) s = .next (accepted (crcStep s.crc b) { s with crc := crcStep s.crc b }) := accept_eq_accepted _ _

/-- Updates in a row change CRC and the responses only, one response a byte. -/
theorem crcUpds_run (bs : List Byte) (s : State) :
    ∃ r, (bs.map Instr.crcUpd).foldl (fun r i => andThen r (exec i)) (.next s) =
        .next { s with crc := bs.foldl crcStep s.crc, rsp := r } ∧ r.length = s.rsp.length + bs.length := by
  induction bs generalizing s with
  | nil => exact ⟨s.rsp, rfl, rfl⟩
  | cons b bs ih =>
    obtain ⟨r, hr, hlen⟩ := ih (accepted (crcStep s.crc b) { s with crc := crcStep s.crc b })
    refine ⟨r, ?_, ?_⟩
    · rw [List.map_cons, List.foldl_cons, andThen_next, exec_crcUpd, hr]; rfl
    · rw [hlen, length_rsp_accepted]; exact Nat.add_right_comm _ _ _

theorem stagedCrc_eq (n : Nat) (s : State) : stagedCrc n s = crc16 (inOrder s.stg.msg.adu n) := by
  rw [stagedCrc, bytes_eq_inOrder]

/-- Settles O13: the command's own definition, and its decoder row. -/
theorem crcInitRuns : Obligations.CrcInitRuns := ⟨exec_crcInit, bareEncoding fun _ _ => rfl⟩

/-- Settles O14: one byte by definition, the composition by `crcUpds_run` from the state after CRC.INIT. -/
theorem crcUpdRuns : Obligations.CrcUpdRuns := by
  refine ⟨exec_crcUpd, fun bs s => ?_, fun w hop => ?_⟩
  · obtain ⟨r, hr, hlen⟩ := crcUpds_run bs (accepted 0xFFFF { s with crc := 0xFFFF })
    refine ⟨{ s with crc := crc16 bs, rsp := r }, ?_, rfl, rfl, ?_⟩
    · rw [List.foldl_cons, andThen_next, exec_crcInit, hr]; rfl
    · rw [hlen, length_rsp_accepted]; exact Nat.add_right_comm _ _ _
  · exact encoding_of_requireZero (decode_of_opField hop) beq_iff_eq

/-- Settles O15: the two sides of the bound, and the decoder row. -/
theorem crcBufRuns : Obligations.CrcBufRuns := by
  refine ⟨fun len s h => ?_, fun len s h => ?_, lengthEncoding fun _ _ => rfl⟩
  · rw [exec, execCrcBuf, if_neg (Nat.not_lt.2 h), stagedCrc_eq, accept_eq_accepted]
  · rw [exec, execCrcBuf, if_pos h, refuse_eq_refusedFor]; rfl

theorem crcAppend_stored (m : Memory) (n : Nat) (h : Memory.wf m) :
    CrcStored m (crcAppend m n) n (crc16 (inOrder m n)) := by
  simp only [CrcStored, crcAppend_read m n _ h, bytes_eq_inOrder, lo8_eq_lowByte, hi8_eq_highByte]
  exact ⟨by simp, by simp, fun j hj hj' => by simp [hj, hj']⟩

/-- Settles O16: the stored bytes by `crcAppend_stored`, the bound, and the decoder row. -/
theorem crcAppendRuns : Obligations.CrcAppendRuns := by
  refine ⟨fun len s hwf h => ⟨_, crcAppend_stored _ len hwf, ?_⟩, fun len s h => ?_, lengthEncoding fun _ _ => rfl⟩
  · rw [exec, execCrcAppend, if_neg (Nat.not_lt.2 h), stagedCrc_eq, accept_eq_accepted]; rfl
  · rw [exec, execCrcAppend, if_pos h, refuse_eq_refusedFor]; rfl

/-- Settles O17: the model's validation is the frame test, whose outcome decides the flag and the answer. -/
theorem crcCheckRuns : Obligations.CrcCheckRuns := by
  refine ⟨fun len s h2 hcap => ?_, fun len s h => ?_, lengthEncoding fun _ _ => rfl⟩
  · have hlegal : ¬(len < 2 ∨ s.par.aduCap < len) := by omega
    rw [exec, execCrcCheck, if_neg hlegal]
    by_cases hvalid : FrameValid (inOrder s.stg.msg.adu len)
    · simp only [(crcValid_iff_frameValid h2).2 hvalid, if_pos hvalid, stagedCrc_eq, accept_eq_accepted]; rfl
    · have hfalse := Bool.eq_false_iff.2 ((crcValid_iff_frameValid h2).not.2 hvalid)
      simp only [hfalse, if_neg hvalid, stagedCrc_eq, accept_eq_accepted]; rfl
  · rw [exec, execCrcCheck, if_pos h, refuse_eq_refusedFor]; rfl

end Sys2Proof
end

section
/-! SUPPORT. What an effective poll answers in each engine state, exactly (R132 to R152). -/

namespace Sys2Proof

open Sys2Proof.Machine Sys2Proof.Claims

/-! ### A poll around its arm (R132) -/

/-- The state in which an effective poll runs its arm. -/
def pollBegun (s : State) : State := { s with lastMs := s.ms, guard := true }

theorem pollOnce_of_used {s : State} (h : s.ms = s.lastMs ∨ s.guard = true) : pollOnce s = .next s := by
  unfold pollOnce
  split
  · rfl
  · exact if_pos (h.resolve_left ‹_›)

theorem pollOnce_of_not_effective {s : State} (h : ¬PollEffective s) : pollOnce s = .next s := by
  refine pollOnce_of_used ?_
  simpa [PollEffective, imp_iff_not_or] using h

theorem pollOnce_of_arm {s u : State} (h : PollEffective s) (hu : pollArm (pollBegun s) = .next u) :
    pollOnce s = .next { u with guard := false } := by
  obtain ⟨hms, hguard⟩ := h
  rw [pollOnce, if_neg hms, hguard]
  exact congrArg (andThen · fun t => .next { t with guard := false }) hu

theorem pollOnce_eq_next {s t : State} (h : pollOnce s = .next t) :
    (¬PollEffective s ∧ t = s) ∨
      (PollEffective s ∧ ∃ u, pollArm (pollBegun s) = .next u ∧ t = { u with guard := false }) := by
  rcases pollOnce_cases h with ⟨hused, rfl⟩ | ⟨hms, hguard, harm⟩
  · exact .inl ⟨fun ⟨hms, hguard⟩ => hused.elim hms (by simp [hguard]), rfl⟩
  · exact .inr ⟨⟨hms, hguard⟩, harm⟩

theorem exec_poll_of_pollOnce {s u : State} (h : pollOnce s = .next u) : exec .poll s = .next (accepted 0 u) := by
  rw [exec, execPoll, h, andThen_next, accept_eq_accepted]

theorem exec_poll_of_arm {s u : State} (h : PollEffective s) (hu : pollArm (pollBegun s) = .next u) :
    exec .poll s = .next (accepted 0 { u with guard := false }) := exec_poll_of_pollOnce (pollOnce_of_arm h hu)

/-! ### Idle (R135, R136) -/

theorem started_eq_transmitting (s : State) : started s = transmitting s := by
  rw [started, bytes_eq_inOrder]; rfl

theorem pollArm_idle_start {s : State} {e : Entry} (hes : s.es = .idle)
    (hc : s.cur.valid = false ∧ s.syncReq = false ∧ ringEmpty s = false) (he : s.q[s.tail.toNat]? = some e)
    (hlen : e.msg.txLength.toNat ≤ s.par.aduCap) : pollArm s = .next (started (dequeued e s)) := by
  simp only [pollArm, hes]
  rw [idleArm_eq_startTx hc he, startTx_eq]
  exact if_pos hlen

theorem pollArm_idle_hold {s : State} (hes : s.es = .idle)
    (hc : ¬(s.cur.valid = false ∧ s.syncReq = false ∧ ringEmpty s = false)) : pollArm s = .next s := by
  simp only [pollArm, hes]
  exact if_neg hc

/-- Settles O35: the Idle arm with its test met, then with one part of the test failing. -/
theorem idlePollStartsTheNextEntryOrOnlyUsesTheTick : Obligations.IdlePollStartsTheNextEntryOrOnlyUsesTheTick := by
  refine ⟨fun s e heff hes hv hr hne he hlen => ?_, fun s heff hes hblocked => ?_⟩
  · have harm := pollArm_idle_start (s := pollBegun s) hes ⟨hv, hr, beq_eq_false_iff_ne.2 hne⟩ he hlen
    rw [exec_poll_of_arm heff harm, started_eq_transmitting]
    rfl
  · refine exec_poll_of_arm heff (pollArm_idle_hold hes fun ⟨hv, hr, hempty⟩ => ?_)
    rcases hblocked with hht | hreq | hvalid
    · exact beq_eq_false_iff_ne.1 hempty hht
    · exact absurd (hr.symm.trans hreq) Bool.false_ne_true
    · exact absurd (hv.symm.trans hvalid) Bool.false_ne_true

/-! ### TX (R138) -/

theorem pollArm_tx {s : State} (hes : s.es = .tx) :
    pollArm s = if s.txq = [] then
        .next { s with rxf := [], dir := if s.ctrl.diren then false else s.dir, es := .awaitReply }
      else .next s := by
  have hpending : pendingTx s = 0 ↔ s.txq = [] := List.length_eq_zero_iff
  simp only [pollArm, hes, txArm, hpending]
  rfl

/-- Settles O36: the two sides of the TX arm's test. -/
theorem txPollWaitsThenTurnsTheLineRound : Obligations.TxPollWaitsThenTurnsTheLineRound := by
  intro s heff hes
  have harm := pollArm_tx (s := pollBegun s) hes
  exact ⟨fun hq => exec_poll_of_arm heff (harm.trans (if_neg hq)),
    fun hq => exec_poll_of_arm heff (harm.trans (if_pos hq))⟩

/-! ### AwaitReply: the countdown and the timeouts (R139 to R142) -/

theorem pollArm_awaitReply {s : State} (hes : s.es = .awaitReply) :
    pollArm s = awaitDecided { s with tocnt := s.tocnt - 1 } := by
  have harm : pollArm s = awaitArm s := by simp only [pollArm, hes]
  exact harm

/-- The last tick of the countdown. -/
theorem pollArm_awaitReply_expired {s : State} (hes : s.es = .awaitReply) (h : s.tocnt = 1) :
    pollArm s = awaitDecided { s with tocnt := 0 } := by
  rw [pollArm_awaitReply hes, h]; rfl

theorem tocnt_sub_one_eq_zero_iff {c : Word} : c - 1 = 0 ↔ c = 1 := by bv_omega

theorem awaitDecided_waiting {s : State} (h0 : s.tocnt ≠ 0) (h : s.rxf.length < s.cur.entry.msg.rxLength.toNat) :
    awaitDecided s = .next s := by
  rw [awaitDecided, if_neg h0]
  exact if_neg (Nat.not_le.2 h)

theorem awaitDecided_timeoutAsync {s : State} (h0 : s.tocnt = 0) (ha : s.cur.entry.async = true) :
    awaitDecided s = .next (enterSilent s) := by
  rw [awaitDecided, if_pos h0, if_pos ha]; rfl

theorem awaitDecided_timeoutSync {s : State} (h0 : s.tocnt = 0) (ha : s.cur.entry.async = false) :
    awaitDecided s = timeoutSync s := by
  rw [awaitDecided, if_pos h0, ha]; rfl

/-- Settles O37: the countdown ends at no poll but the one that finds it at 1. -/
theorem awaitPollCountsDown : Obligations.AwaitPollCountsDown := fun s heff hes hcnt hlen =>
  exec_poll_of_arm heff ((pollArm_awaitReply (s := pollBegun s) hes).trans
    (awaitDecided_waiting (tocnt_sub_one_eq_zero_iff.not.2 hcnt) hlen))

/-- Settles O38: with the countdown at its end an asynchronous packet's branch reads no byte. -/
theorem asyncTimeoutIsSilent : Obligations.AsyncTimeoutIsSilent := fun s heff hes hcnt ha =>
  exec_poll_of_arm heff ((pollArm_awaitReply_expired (s := pollBegun s) hes hcnt).trans
    (awaitDecided_timeoutAsync rfl ha))

theorem frontStored_writeAll {m : Memory} (bs : List Byte) (h : Memory.wf m) : FrontStored m (writeAll m 0 bs) bs := by
  refine ⟨fun j hj => ?_, fun j hj => ?_⟩
  · simp [writeAll_read m 0 j bs h, hj]
  · simp [writeAll_read m 0 j bs h, hj]

theorem timeoutSync_short {s : State} (h : s.rxf.length < 3) : timeoutSync s = .next { s with es := .timeout } :=
  if_neg (Nat.not_le.2 h)

theorem inspectReply_eq (s : State) :
    inspectReply s = .next (if Memory.read s.cur.entry.msg.adu 1 &&& 0x80 ≠ 0 then
        { s with exc := Memory.read s.cur.entry.msg.adu 2, exkind := true, es := .exception }
      else { s with es := .timeout }) :=
  (apply_ite Host.Outcome.next _ _ _).symm

/-- The three bytes read: the second has the exception bit, or it has not (R142; log entry 10). -/
theorem timeoutSync_three {s : State} {b0 b1 b2 : Byte} {rest : List Byte} (hrx : s.rxf = b0 :: b1 :: b2 :: rest)
    (hcap : 3 ≤ s.par.aduCap) (hwf : Memory.wf s.cur.entry.msg.adu) :
    timeoutSync s = .next (withCurAdu (writeAll s.cur.entry.msg.adu 0 [b0, b1, b2])
      (if b1 &&& 0x80 ≠ 0 then { s with rxf := rest, exc := b2, exkind := true, es := .exception }
        else { s with rxf := rest, es := .timeout })) := by
  obtain ⟨hread, -⟩ := frontStored_writeAll [b0, b1, b2] hwf
  have h1 : Memory.read (writeAll s.cur.entry.msg.adu 0 [b0, b1, b2]) 1 = b1 := hread 1 (by simp)
  have h2 : Memory.read (writeAll s.cur.entry.msg.adu 0 [b0, b1, b2]) 2 = b2 := hread 2 (by simp)
  have hthree : 3 ≤ pendingRx s := by simp [pendingRx, hrx]
  have hcapture := captureReply_ok inspectReply s [b0, b1, b2] rest hrx hcap
  rw [timeoutSync, if_pos hthree]
  refine hcapture.trans ?_
  simp only [inspectReply_eq, captured, h1, h2]
  split <;> rfl

/-- Settles O39: the synchronous timeout with fewer than three bytes buffered, and with three. -/
theorem syncTimeoutInspectsThreeBytes : Obligations.SyncTimeoutInspectsThreeBytes := by
  intro s heff hes hcnt ha
  have harm := (pollArm_awaitReply_expired (s := pollBegun s) hes hcnt).trans (awaitDecided_timeoutSync rfl ha)
  refine ⟨fun hlen => exec_poll_of_arm heff (harm.trans (timeoutSync_short hlen)), ?_⟩
  intro b0 b1 b2 rest hrx hcap hwf
  refine ⟨_, frontStored_writeAll [b0, b1, b2] hwf, ?_⟩
  rw [exec_poll_of_arm heff (harm.trans (timeoutSync_three hrx hcap hwf))]
  split <;> rfl

/-! ### AwaitReply: the reply (R143 to R145) -/

theorem inOrder_of_frontStored {m m' : Memory} {bs : List Byte} (h : FrontStored m m' bs) :
    inOrder m' bs.length = bs := by
  obtain ⟨hread, -⟩ := h
  refine List.ext_getElem (length_inOrder _ _) fun j _ hj => ?_
  simp [inOrder, hread j hj]

theorem replyOk_async {s : State} (ha : s.cur.entry.async = true) :
    replyOk s = .next (enterSilent (emit .reply codeNone (some s.cur.entry.msg) s)) := if_pos ha

theorem replyOk_sync {s : State} (ha : s.cur.entry.async = false) : replyOk s = .next { s with es := .gotReply } :=
  if_neg (Bool.eq_false_iff.1 ha)

theorem replyCrcMismatch_async {s : State} (ha : s.cur.entry.async = true) :
    replyCrcMismatch s = .next (enterSilent (emit .crcFail codeNone none s)) := if_pos ha

theorem replyCrcMismatch_sync {s : State} (ha : s.cur.entry.async = false) :
    replyCrcMismatch s = .next { s with exc := codeNone, exkind := false, es := .exception } :=
  if_neg (Bool.eq_false_iff.1 ha)

theorem classifyReply_eq {s : State} (h2 : s.cur.entry.msg.crcCheck = true → 2 ≤ s.cur.entry.msg.rxLength.toNat) :
    classifyReply s =
      if s.cur.entry.msg.crcCheck = true → crcValid s.cur.entry.msg.adu s.cur.entry.msg.rxLength.toNat = true
      then replyOk s else replyCrcMismatch s := by
  simp only [classifyReply]
  by_cases hc : s.cur.entry.msg.crcCheck = true
  · simp [hc, Nat.not_lt.2 (h2 hc)]
  · simp [hc]

theorem replyAccepted_iff {s : State} {bs : List Byte} (hlen : bs.length = s.cur.entry.msg.rxLength.toNat)
    (hwf : Memory.wf s.cur.entry.msg.adu) (h2 : s.cur.entry.msg.crcCheck = true → 2 ≤ bs.length) :
    ReplyAccepted s bs ↔ (s.cur.entry.msg.crcCheck = true →
      crcValid (writeAll s.cur.entry.msg.adu 0 bs) s.cur.entry.msg.rxLength.toNat = true) := by
  refine forall_congr' fun hc => ?_
  rw [← hlen, crcValid_iff_frameValid (h2 hc), inOrder_of_frontStored (frontStored_writeAll bs hwf)]

open Classical in
theorem awaitDecided_capture {s : State} {bs rest : List Byte} (h0 : s.tocnt ≠ 0) (hrx : s.rxf = bs ++ rest)
    (hlen : bs.length = s.cur.entry.msg.rxLength.toNat) (hcap : bs.length ≤ s.par.aduCap)
    (hwf : Memory.wf s.cur.entry.msg.adu) (h2 : s.cur.entry.msg.crcCheck = true → 2 ≤ bs.length) :
    awaitDecided s =
      if ReplyAccepted s bs then replyOk (captured (writeAll s.cur.entry.msg.adu 0 bs) rest s)
      else replyCrcMismatch (captured (writeAll s.cur.entry.msg.adu 0 bs) rest s) := by
  have hfull : s.cur.entry.msg.rxLength.toNat ≤ pendingRx s := by simp [pendingRx, hrx, ← hlen]
  rw [awaitDecided, if_neg h0, if_pos hfull, captureAndClassify, ← hlen, captureReply_ok _ s bs rest hrx hcap,
    classifyReply_eq (hlen ▸ h2)]
  simp only [replyAccepted_iff hlen hwf h2]
  rfl

/-- Settles O40: the capture, then the four outcomes of its classification. -/
theorem awaitPollCapturesAndClassifies : Obligations.AwaitPollCapturesAndClassifies := by
  intro s bs rest heff hes hcnt hrx hlen hcap hwf h2
  refine ⟨_, frontStored_writeAll bs hwf, ?_⟩
  have harm := (pollArm_awaitReply (s := pollBegun s) hes).trans
    (awaitDecided_capture (tocnt_sub_one_eq_zero_iff.not.2 hcnt) hrx hlen hcap hwf h2)
  by_cases hok : ReplyAccepted s bs
  · replace harm := harm.trans (if_pos hok)
    simp only [if_pos hok]
    cases ha : s.cur.entry.async with
    | true => exact exec_poll_of_arm heff (harm.trans (replyOk_async ha))
    | false => exact exec_poll_of_arm heff (harm.trans (replyOk_sync ha))
  · replace harm := harm.trans (if_neg hok)
    simp only [if_neg hok]
    cases ha : s.cur.entry.async with
    | true => exact exec_poll_of_arm heff (harm.trans (replyCrcMismatch_async ha))
    | false => exact exec_poll_of_arm heff (harm.trans (replyCrcMismatch_sync ha))

/-! ### The terminal states (R146 to R148) -/

/-- Settles O41: the three deliveries, and the exception's code by its kind. -/
theorem terminalPollDeliversTheRecord : Obligations.TerminalPollDeliversTheRecord := by
  intro s heff
  have hexc (hes : s.es = .exception) := exec_poll_of_arm heff
    (show pollArm (pollBegun s) = .next (deliverException (pollBegun s)) by simp only [pollArm, pollBegun, hes])
  refine ⟨fun hes => ?_, fun hes => ?_, fun hes => ?_, fun hes hcode => ?_⟩
  · exact exec_poll_of_arm heff
      (show pollArm (pollBegun s) = .next (deliverReply (pollBegun s)) by simp only [pollArm, pollBegun, hes])
  · exact exec_poll_of_arm heff
      (show pollArm (pollBegun s) = .next (deliverTimeout (pollBegun s)) by simp only [pollArm, pollBegun, hes])
  · exact hexc hes
  · refine (hexc hes).trans ?_
    cases hk : s.exkind with
    | true => simp only [deliverException, pollBegun, hk]; rfl
    | false => simp only [deliverException, pollBegun, hk, hcode hk]; rfl

/-! ### Silent (R152) -/

theorem silenceFor_baud {s : State} (h : s.baud.toNat < s.par.nb) : silenceFor s s.baud = some (silenceNow s) := by
  obtain ⟨row, hrow⟩ : ∃ row, s.par.baudTable[s.baud.toNat]? = some row := ⟨_, List.getElem?_eq_getElem h⟩
  simp only [silenceFor, silenceNow, hrow]
  exact (apply_ite some _ _ _).symm

theorem pollArm_silent {s : State} (hes : s.es = .silent) (hb : s.baud.toNat < s.par.nb) :
    pollArm s = if silenceNow s ≤ (s.ms - s.silt0).toNat then
        .next (flushIfPending { s with cur := { s.cur with valid := false }, es := .idle })
      else .next s := by
  simp only [pollArm, hes, silentArm, silenceFor_baud hb]

theorem toNat_elapsed (a b : Word32) : (a - b).toNat = (a.toNat + 2 ^ 32 - b.toNat) % 2 ^ 32 := by
  rw [BitVec.toNat_sub]; congr 1; have := b.isLt; omega

theorem flushIfPending_eq (s : State) :
    flushIfPending s = { s with head := if s.rstPend then s.tail else s.head, rstPend := false } := by
  unfold flushIfPending
  cases h : s.rstPend with
  | true => rfl
  | false => simp only [Bool.false_eq_true, if_false]; rw [← h]

/-- Settles O42: the two sides of the Silent arm's test. -/
theorem silentPollHoldsForTheSilence : Obligations.SilentPollHoldsForTheSilence := by
  intro s heff hes hb
  have harm := pollArm_silent (s := pollBegun s) hes hb
  refine ⟨fun hlt => ?_, fun hle => ?_⟩
  · rw [← toNat_elapsed] at hlt
    exact exec_poll_of_arm heff (harm.trans (if_neg (Nat.not_le.2 hlt)))
  · rw [← toNat_elapsed] at hle
    rw [exec_poll_of_arm heff (harm.trans (if_pos hle)), flushIfPending_eq]
    rfl

end Sys2Proof
end

section
/-! SUPPORT. Each step by the name of its event (R10, R82), that no step from the invariant stops (R242), and the
transition table of ES (R154). -/

namespace Sys2Proof

open Sys2Proof.Machine Sys2Proof.Claims

/-! ### Results, whatever they are -/

/-- Whatever next state `r` answers has the property. -/
def Leads (P : State → Prop) (r : Res) : Prop := ∀ t, r = .next t → P t

theorem leads_accept {P : State → Prop} {u : State} {v : Word} (h : P (respond false v u)) : Leads P (accept v u) :=
  fun _ ht => by cases ht; exact h

theorem leads_refuse {P : State → Prop} {u : State} {r : Reason} (h : P (respond true (reasonCode r) u)) :
    Leads P (refuse r u) := fun _ ht => by cases ht; exact h

theorem leads_fault {P : State → Prop} {e : Fault} : Leads P (.fault e) := fun _ ht => by cases ht

theorem leads_ite {P : State → Prop} {c : Prop} [Decidable c] {r₁ r₂ : Res} (h₁ : Leads P r₁) (h₂ : Leads P r₂) :
    Leads P (if c then r₁ else r₂) := by
  split
  · exact h₁
  · exact h₂

theorem runs_ite {c : Prop} [Decidable c] {r₁ r₂ : Res} (h₁ : Runs r₁) (h₂ : Runs r₂) :
    Runs (if c then r₁ else r₂) := by
  split
  · exact h₁
  · exact h₂

theorem runs_andThen {r : Res} {f : State → Res} (h : Runs r) (hf : ∀ t, Runs (f t)) : Runs (andThen r f) := by
  obtain ⟨t, rfl⟩ := h
  exact hf t

/-! ### The command of a step (R82) -/

theorem isCommand_command_iff {i : Instr} {w : Word32} : IsCommand i (.command w) ↔ decode w = .instr i := by
  simp [IsCommand]

theorem isPoll_command_iff {w : Word32} :
    IsPoll (.command w) ↔ decode w = .instr .poll ∨ decode w = .instr .getState := by simp [IsPoll]

/-- The command writes BAUD or SIL (R198, R200, R201). -/
def WritesTiming (i : Instr) : Prop := i = .silDef ∨ ∃ r v, i = .wrreg r v ∧ (r = 0x03 ∨ (0x10 ≤ r ∧ r < 0x20))

theorem changesTiming_of_decode {w : Word32} {i : Instr} (hd : decode w = .instr i) (h : WritesTiming i) :
    ChangesTiming (.command w) := by
  rcases h with rfl | ⟨r, v, rfl, hr⟩
  · exact .inl (isCommand_command_iff.2 hd)
  · exact .inr ⟨r, v, isCommand_command_iff.2 hd, hr⟩

/-- The CRC unit, the staging message, the blocking request, the configuration and the responses of `t` in `s`. -/
def hostWritten (s t : State) : State :=
  { s with
    crc := t.crc, crcOk := t.crcOk, stg := t.stg, sync := t.sync, syncReq := t.syncReq, ctrl := t.ctrl, baud := t.baud
    timeout := t.timeout, sil := t.sil, tbaud := t.tbaud, rsp := t.rsp }

/-- The command leaves everything else alone, and the timing table too unless it writes it (R218). -/
def HostOnly (i : Instr) (s t : State) : Prop :=
  t = hostWritten s t ∧ (¬WritesTiming i → t.baud = s.baud ∧ t.sil = s.sil)

/-- A register number that names a register of the table of R32 by its range. -/
theorem regOfNumber_range {nb reg : Nat} {r : Reg} (h : regOfNumber nb reg = some r) :
    (r = .baud → reg = 0x03) ∧ (∀ k, r = .sil k → 0x10 ≤ reg ∧ reg < 0x10 + nb) ∧ (∀ k, r = .dsil k → k < nb) := by
  unfold regOfNumber at h
  split at h
  case h_19 =>
    split at h
    · cases h; exact ⟨nofun, fun k _ => ‹_›, nofun⟩
    · split at h
      · cases h; exact ⟨nofun, nofun, fun k hk => by cases hk; omega⟩
      · cases h
  all_goals cases h; simp

theorem hostOnly_of_writeReg {reg : Nat} {r : Reg} {v : Word} {s t : State} (hnb : s.par.nb ≤ 16)
    (hr : regOfNumber s.par.nb reg = some r) (h : writeReg r v s = .ok t) :
    HostOnly (.wrreg reg v) s (respond false 0 t) := by
  obtain ⟨hbaud, hsil, -⟩ := regOfNumber_range hr
  cases r with
  | ctrl =>
    simp only [writeReg, writeCtrl] at h
    split at h <;> cases h
    exact ⟨rfl, fun _ => ⟨rfl, rfl⟩⟩
  | baud =>
    simp only [writeReg, writeBaud] at h
    split at h <;> cases h
    exact ⟨rfl, fun hw => absurd (.inr ⟨_, _, rfl, .inl (hbaud rfl)⟩) hw⟩
  | timeout =>
    simp only [writeReg, writeTimeout] at h
    split at h <;> cases h
    exact ⟨rfl, fun _ => ⟨rfl, rfl⟩⟩
  | txlen | rxlen | ctx | mflags => cases h; exact ⟨rfl, fun _ => ⟨rfl, rfl⟩⟩
  | sil k =>
    cases h
    have hrange := hsil k rfl
    exact ⟨rfl, fun hw => absurd (.inr ⟨_, _, rfl, .inr ⟨hrange.1, by omega⟩⟩) hw⟩
  | crc | stat | head | tail | tocnt | msl | msh | silt0l | silt0h | dsil k | exc | silact => cases h

/-- The commands that are no poll, no reset and no SEND.A. -/
theorem exec_hostOnly {i : Instr} {s : State} (hnb : s.par.nb ≤ 16)
    (hi : i ∉ [.poll, .getState, .sendA, .rstSoft, .rstAbort]) : Leads (HostOnly i s) (exec i s) := by
  have hquiet {u : State} (h : u = hostWritten s u) (hb : u.baud = s.baud) (hs : u.sil = s.sil) : HostOnly i s u :=
    ⟨h, fun _ => ⟨hb, hs⟩⟩
  cases i with
  | nop | crcInit | crcUpd | isReady => exact leads_accept (hquiet rfl rfl rfl)
  | crcBuf | crcAppend | crcCheck | stb | ldb =>
    exact leads_ite (leads_refuse (hquiet rfl rfl rfl)) (leads_accept (hquiet rfl rfl rfl))
  | silDef => exact leads_accept ⟨rfl, fun hw => absurd (.inl rfl) hw⟩
  | wrreg reg value =>
    simp only [exec, execWrreg]
    split
    · exact leads_refuse (hquiet rfl rfl rfl)
    · split
      · exact leads_refuse (hquiet rfl rfl rfl)
      · exact leads_accept (hostOnly_of_writeReg hnb ‹_› ‹_›)
  | rdreg reg =>
    simp only [exec, execRdreg]
    split
    · exact leads_refuse (hquiet rfl rfl rfl)
    · split
      · exact leads_fault
      · exact leads_accept (hquiet rfl rfl rfl)
  | sendS =>
    simp only [exec, execSendS]
    split
    · exact leads_refuse (hquiet rfl rfl rfl)
    · exact leads_accept (hquiet rfl rfl rfl)
  | poll | getState | sendA | rstSoft | rstAbort => simp at hi

/-- A step on the command word `w`, by what it does and which command does it (R82, R90). -/
inductive CommandStep (w : Word32) (s : State) : State → Prop where
  /-- POLL and GETSTATE (R132, R214). -/
  | polled {u : State} (h : IsPoll (.command w)) (hu : pollOnce s = .next u) (v : Word) :
      CommandStep w s (respond false v u)
  /-- SEND.A into a ring that is not full (R171). -/
  | enqueued (h : IsCommand .sendA (.command w)) (hfull : ringFull s = false) :
      CommandStep w s (respond false 1 (enqueue (stagedEntry true s) s))
  /-- RST.SOFT with nothing in flight (R254). -/
  | flushed (h : IsCommand .rstSoft (.command w)) (hes : s.es = .idle) :
      CommandStep w s (respond false 0 { s with head := s.tail })
  /-- RST.SOFT with a packet in flight (R254). -/
  | resetPending (h : IsCommand .rstSoft (.command w)) : CommandStep w s (respond false 0 { s with rstPend := true })
  /-- RST.ABORT (R253). -/
  | aborted (h : IsCommand .rstAbort (.command w)) : CommandStep w s (respond false 0 (aborted s))
  /-- Refusals, and the commands that write the host's own state (R218). -/
  | hostOnly {t : State} (hp : ¬IsPoll (.command w)) (ha : ¬IsCommand .rstAbort (.command w)) (h : t = hostWritten s t)
      (htiming : ¬ChangesTiming (.command w) → t.baud = s.baud ∧ t.sil = s.sil) : CommandStep w s t

theorem CommandStep.hostOnly_of_decode {w : Word32} {i : Instr} {s t : State} (hd : decode w = .instr i)
    (hi : i ∉ [.poll, .getState, .rstAbort]) (h : HostOnly i s t) : CommandStep w s t := by
  simp only [List.mem_cons, List.not_mem_nil, or_false, not_or] at hi
  obtain ⟨hpoll, hget, habort⟩ := hi
  obtain ⟨hframe, htiming⟩ := h
  exact .hostOnly (by simp [isPoll_command_iff, hd, hpoll, hget]) (by simp [isCommand_command_iff, hd, habort]) hframe
    fun hc => htiming (mt (changesTiming_of_decode hd) hc)

theorem commandStep_sendA {w : Word32} (hd : decode w = .instr .sendA) (s : State) :
    Leads (CommandStep w s) (execSendA s) := by
  have hanswer (err : Bool) (v : Word) : CommandStep w s (respond err v s) :=
    .hostOnly_of_decode hd (by simp) ⟨rfl, fun _ => ⟨rfl, rfl⟩⟩
  simp only [execSendA]
  split
  · exact leads_refuse (hanswer _ _)
  · split
    · exact leads_accept (hanswer _ _)
    · refine leads_ite leads_fault (leads_accept (.enqueued (isCommand_command_iff.2 hd) ?_))
      simpa using ‹¬ringFull s = true›

theorem commandStep_of_runCommand {w : Word32} {s : State} (hnb : s.par.nb ≤ 16) :
    Leads (CommandStep w s) (runCommand w s) := by
  unfold runCommand
  cases hd : decode w with
  | rejected r =>
    exact leads_refuse (.hostOnly (by simp [isPoll_command_iff, hd]) (by simp [isCommand_command_iff, hd]) rfl
      fun _ => ⟨rfl, rfl⟩)
  | instr i =>
    by_cases hi : i ∈ [.poll, .getState, .sendA, .rstSoft, .rstAbort]
    · simp only [List.mem_cons, List.not_mem_nil, or_false] at hi
      rcases hi with rfl | rfl | rfl | rfl | rfl
      · intro t ht
        obtain ⟨u, hu, ht⟩ := andThen_eq_next ht
        cases ht
        exact .polled (isPoll_command_iff.2 (.inl hd)) hu _
      · intro t ht
        obtain ⟨u, hu, ht⟩ := andThen_eq_next ht
        cases ht
        exact .polled (isPoll_command_iff.2 (.inr hd)) hu _
      · exact commandStep_sendA hd s
      · simp only [exec, execRstSoft]
        split
        · exact leads_accept (.flushed (isCommand_command_iff.2 hd) (And.left ‹_›))
        · exact leads_accept (.resetPending (isCommand_command_iff.2 hd))
      · exact leads_accept (.aborted (isCommand_command_iff.2 hd))
    · intro t ht
      exact .hostOnly_of_decode hd (by simp at hi ⊢; simp [hi]) (exec_hostOnly hnb hi t ht)

/-- What a command that is no poll and no abort may write: the host's own state, the ring's producer side and RSTPEND,
here of `t` in `s`. -/
def hostSide (s t : State) : State := { hostWritten s t with q := t.q, head := t.head, rstPend := t.rstPend }

theorem CommandStep.frame {w : Word32} {s t : State} (h : CommandStep w s t) (hp : ¬IsPoll (.command w))
    (ha : ¬IsCommand .rstAbort (.command w)) : t = hostSide s t := by
  cases h with
  | polled h => exact absurd h hp
  | aborted h => exact absurd h ha
  | enqueued | flushed | resetPending => rfl
  | hostOnly _ _ h => rw [h]; rfl

theorem inv_nb_le {s : State} (h : BlockInv s) : s.par.nb ≤ 16 := by
  obtain ⟨-, -, ⟨-, hnb⟩, -⟩ := h.parLegal
  exact hnb

/-! ### ES after an arm of the poll (R154), which never stops (R242) -/

theorem not_exceptionReply_of_short {bs : List Byte} (h : bs.length < 3) : ¬ExceptionReply bs := by
  rintro ⟨b0, b1, b2, rest, rfl, -⟩
  simp only [List.length_cons] at h
  omega

theorem exceptionReply_cons_iff {b0 b1 b2 : Byte} {rest : List Byte} :
    ExceptionReply (b0 :: b1 :: b2 :: rest) ↔ b1 &&& 0x80 ≠ 0 := by simp [ExceptionReply]

open Classical in
theorem timeoutSync_next {s : State} (hcap : 3 ≤ s.par.aduCap) (hwf : Memory.wf s.cur.entry.msg.adu) :
    ∃ t, timeoutSync s = .next t ∧ t.es = if ExceptionReply s.rxf then .exception else .timeout := by
  rcases hrx : s.rxf with _ | ⟨b0, _ | ⟨b1, _ | ⟨b2, rest⟩⟩⟩
  case cons.cons.cons =>
    refine ⟨_, timeoutSync_three hrx hcap hwf, ?_⟩
    simp only [exceptionReply_cons_iff, withCurAdu]
    split <;> rfl
  all_goals
    refine ⟨_, timeoutSync_short (by simp [hrx]), ?_⟩
    rw [if_neg (not_exceptionReply_of_short (by simp))]

open Classical in
/-- A full reply ends the wait (R143 to R145). -/
theorem awaitDecided_capture_next {s : State} {bs rest : List Byte} (h0 : s.tocnt ≠ 0) (hrx : s.rxf = bs ++ rest)
    (hlen : bs.length = s.cur.entry.msg.rxLength.toNat) (hcap : bs.length ≤ s.par.aduCap)
    (hwf : Memory.wf s.cur.entry.msg.adu) (h2 : s.cur.entry.msg.crcCheck = true → 2 ≤ bs.length) :
    ∃ t, awaitDecided s = .next t ∧ t.es = if s.cur.entry.async then .silent
      else if ReplyAccepted s bs then .gotReply else .exception := by
  rw [awaitDecided_capture h0 hrx hlen hcap hwf h2]
  cases ha : s.cur.entry.async with
  | true =>
    split
    · exact ⟨_, replyOk_async ha, rfl⟩
    · exact ⟨_, replyCrcMismatch_async ha, rfl⟩
  | false =>
    split
    · exact ⟨_, replyOk_sync ha, rfl⟩
    · exact ⟨_, replyCrcMismatch_sync ha, rfl⟩

theorem pollArm_awaitReply_next {s : State} (h : BlockInv { s with guard := false }) (hes : s.es = .awaitReply) :
    ∃ t, pollArm s = .next t ∧ t.es = pollSuccessor s := by
  have hv : s.cur.valid = true := inv_valid (s := { s with guard := false }) h (hes.trans_ne (by decide))
  obtain ⟨⟨-, -, hrx, hcheck⟩, -⟩ := h.curLegal hv
  have hcap := (inv_bounds h).2.2.1
  have hwf := h.curAdu.1
  simp only [pollSuccessor, hes]
  by_cases hone : s.tocnt = 1
  · rw [if_pos hone, pollArm_awaitReply_expired hes hone]
    cases ha : s.cur.entry.async with
    | true => exact ⟨_, awaitDecided_timeoutAsync rfl ha, rfl⟩
    | false =>
      obtain ⟨t, ht, hes'⟩ := timeoutSync_next (s := { s with tocnt := 0 }) (Nat.le_trans (by omega) hcap) hwf
      exact ⟨t, (awaitDecided_timeoutSync (s := { s with tocnt := 0 }) rfl ha).trans ht, hes'⟩
  · have h0 := tocnt_sub_one_eq_zero_iff.not.2 hone
    rw [if_neg hone, pollArm_awaitReply hes]
    by_cases hfull : s.cur.entry.msg.rxLength.toNat ≤ s.rxf.length
    · have hlen := List.length_take_of_le hfull
      rw [if_pos hfull]
      exact awaitDecided_capture_next h0 (List.take_append_drop _ _).symm hlen (hlen.le.trans hrx) hwf
        fun hc => (hcheck hc).trans hlen.ge
    · rw [if_neg hfull]
      exact ⟨_, awaitDecided_waiting h0 (Nat.not_le.1 hfull), hes⟩

theorem pollArm_idle_next {s : State} (h : BlockInv { s with guard := false }) (hes : s.es = .idle) :
    ∃ t, pollArm s = .next t ∧ t.es = pollSuccessor s := by
  have hv : s.cur.valid = false := h.idleIff.1 hes
  simp only [pollSuccessor, hes]
  by_cases hc : s.head ≠ s.tail ∧ s.syncReq = false
  · obtain ⟨e, he⟩ := getElem?_tail h
    have hfirst : e ∈ waiting s := by
      rw [waiting_eq_cons_dequeued h hc.1 he]
      exact List.mem_cons_self
    obtain ⟨⟨-, hlen, -⟩, -⟩ := h.waitingLegal e hfirst
    rw [if_pos hc]
    exact ⟨_, pollArm_idle_start hes ⟨hv, hc.2, beq_eq_false_iff_ne.2 hc.1⟩ he hlen, rfl⟩
  · rw [if_neg hc]
    exact ⟨s, pollArm_idle_hold hes fun ⟨_, hr, hempty⟩ => hc ⟨beq_eq_false_iff_ne.1 hempty, hr⟩, hes⟩

/-- The state an arm leaves ES in is the table's (R154). -/
theorem pollArm_next {s : State} (h : BlockInv { s with guard := false }) :
    ∃ t, pollArm s = .next t ∧ t.es = pollSuccessor s := by
  cases hes : s.es with
  | idle => exact pollArm_idle_next h hes
  | tx =>
    rw [pollArm_tx hes]
    simp only [pollSuccessor, hes]
    split
    · exact ⟨_, rfl, rfl⟩
    · exact ⟨_, rfl, hes⟩
  | awaitReply => exact pollArm_awaitReply_next h hes
  | gotReply => exact ⟨deliverReply s, by simp only [pollArm, hes], by simp only [pollSuccessor, hes]; rfl⟩
  | exception => exact ⟨deliverException s, by simp only [pollArm, hes], by simp only [pollSuccessor, hes]; rfl⟩
  | timeout => exact ⟨deliverTimeout s, by simp only [pollArm, hes], by simp only [pollSuccessor, hes]; rfl⟩
  | silent =>
    rw [pollArm_silent hes h.baudInTable, toNat_elapsed]
    simp only [pollSuccessor, hes]
    split
    · exact ⟨_, rfl, by rw [flushIfPending_eq]⟩
    · exact ⟨_, rfl, hes⟩

open Classical in
theorem pollOnce_next {s : State} (h : BlockInv s) :
    ∃ t, pollOnce s = .next t ∧ t.es = if PollEffective s then pollSuccessor s else s.es := by
  by_cases heff : PollEffective s
  · obtain ⟨t, ht, hes⟩ := pollArm_next (s := pollBegun s) { h with guardClear := rfl }
    rw [if_pos heff]
    exact ⟨_, pollOnce_of_arm heff ht, hes⟩
  · rw [if_neg heff]
    exact ⟨s, pollOnce_of_not_effective heff, rfl⟩

/-! ### No step stops (R242) -/

theorem regValue_of_regOfNumber {s : State} {reg : Nat} {r : Reg} (h : BlockInv s)
    (hr : regOfNumber s.par.nb reg = some r) : ∃ v, regValue s r = some v := by
  cases r with
  | dsil k =>
    have hrow := List.getElem?_eq_getElem ((regOfNumber_range hr).2.2 k rfl)
    exact ⟨_, congrArg (Option.map fun row : BaudRow => BitVec.ofNat 16 row.dsil) hrow⟩
  | silact => exact ⟨_, congrArg (Option.map (BitVec.ofNat 16)) (silenceFor_baud h.baudInTable)⟩
  | crc | stat | ctrl | baud | timeout | txlen | rxlen | ctx | mflags | head | tail | tocnt | msl | msh | silt0l
  | silt0h | sil k | exc => exact ⟨_, rfl⟩

theorem exec_runs {s : State} (h : BlockInv s) (i : Instr) : Runs (exec i s) := by
  have hpoll : Runs (pollOnce s) := (pollOnce_next h).imp fun _ ht => ht.1
  cases i with
  | nop | crcInit | crcUpd | isReady | silDef | rstAbort => exact ⟨_, rfl⟩
  | crcBuf | crcAppend | crcCheck | stb | ldb | rstSoft => exact runs_ite ⟨_, rfl⟩ ⟨_, rfl⟩
  | poll | getState => exact runs_andThen hpoll fun _ => ⟨_, rfl⟩
  | wrreg reg value =>
    simp only [exec, execWrreg]
    split
    · exact ⟨_, rfl⟩
    · split <;> exact ⟨_, rfl⟩
  | rdreg reg =>
    simp only [exec, execRdreg]
    split
    · exact ⟨_, rfl⟩
    · obtain ⟨v, hv⟩ := regValue_of_regOfNumber h ‹_›
      rw [hv]
      exact ⟨_, rfl⟩
  | sendA =>
    have hslot : ¬s.q.length ≤ s.head.toNat := by rw [h.qLength]; exact Nat.not_le.2 h.headInRing
    simp only [exec, execSendA, if_neg hslot]
    split
    · exact ⟨_, rfl⟩
    · exact runs_ite ⟨_, rfl⟩ ⟨_, rfl⟩
  | sendS =>
    simp only [exec, execSendS]
    split <;> exact ⟨_, rfl⟩

theorem grantStep_of_request {s : State} (h : BlockInv s) (hes : s.es = .idle) (hr : s.syncReq = true) :
    grantStep s = .next (started (granted s)) := by
  obtain ⟨-, hlen, -⟩ := h.syncLegal hr
  rw [grantStep_eq, if_pos ((grantEnabled_iff s).2 ⟨hr, hes, h.idleIff.1 hes⟩), startTx_eq]
  exact if_pos hlen

theorem grantStep_of_no_request {s : State} (hr : ¬(s.es = .idle ∧ s.syncReq = true)) : grantStep s = .next s := by
  rw [grantStep_eq]
  refine if_neg fun hg => hr ?_
  obtain ⟨hreq, hes, -⟩ := (grantEnabled_iff s).1 hg
  exact ⟨hes, hreq⟩

theorem runEvent_runs {s : State} (h : BlockInv s) (e : Event) : Runs (runEvent e s) := by
  cases e with
  | command w =>
    simp only [runEvent, runCommand]
    split
    · exact exec_runs h _
    · exact ⟨_, rfl⟩
  | tick | txOut | rxIn | dispComplete | por => exact ⟨_, rfl⟩
  | dispGrant =>
    by_cases hr : s.es = .idle ∧ s.syncReq = true
    · exact ⟨_, grantStep_of_request h hr.1 hr.2⟩
    · exact ⟨_, grantStep_of_no_request hr⟩

/-! ### ES after a step (R154) -/

theorem completeStep_es {s : State} (h : BlockInv s) :
    (completeStep s).es = if s.es = .gotReply ∨ s.es = .timeout ∨ s.es = .exception then .silent else s.es := by
  have hterm : s.es = .gotReply ∨ s.es = .timeout ∨ s.es = .exception ↔ terminalState s.es = true := by
    cases s.es <;> decide
  split
  · rename_i hes
    obtain ⟨hv, ha⟩ := h.terminalSync (hterm.1 hes)
    have hen : completeEnabled s = true := by simp [completeEnabled, hv, ha, hterm.1 hes]
    rw [completeStep, if_pos hen]
    rcases hes with hes | hes | hes <;> rw [hes] <;> rfl
  · rename_i hes
    rcases completeStep_cases s with hc | ⟨ht, -⟩
    · rw [hc]
    · exact absurd (hterm.2 ht) hes

open Classical in
theorem es_runCommand {w : Word32} {s t : State} (h : BlockInv s) (ht : runCommand w s = .next t) :
    t.es = engineSuccessor s (.command w) := by
  cases commandStep_of_runCommand (inv_nb_le h) t ht with
  | polled hp hu v =>
    obtain ⟨u, hu', hes⟩ := pollOnce_next h
    cases hu.symm.trans hu'
    have hp := isPoll_command_iff.1 hp
    have hd : decode w ≠ .instr .rstAbort := by rcases hp with hd | hd <;> simp [hd]
    rw [respond_es, hes, engineSuccessor, if_neg hd]
    simp only [hp, true_and]
  | enqueued hd | flushed hd | resetPending hd =>
    simp [engineSuccessor, isCommand_command_iff.1 hd, enqueue]
  | aborted hd => simp [engineSuccessor, isCommand_command_iff.1 hd]; rfl
  | hostOnly hp ha hframe =>
    have hes : t.es = s.es := by rw [hframe]; rfl
    rw [isPoll_command_iff] at hp
    rw [isCommand_command_iff] at ha
    simp [engineSuccessor, ha, hp, hes]

/-- Settles O43: the table's row for each agent; for a poll `pollOnce_next`. -/
theorem engineStateFollowsTheTransitionTable : Obligations.EngineStateFollowsTheTransitionTable := by
  intro e s t h ht
  rw [step_scheduled] at ht
  cases e with
  | command w => exact es_runCommand h ht
  | tick | rxIn | por => cases ht; rfl
  | txOut =>
    cases ht
    obtain ⟨q, l, hq⟩ := txOutStep_eq s
    rw [hq]; rfl
  | dispGrant =>
    replace ht : grantStep s = .next t := ht
    by_cases hr : s.es = .idle ∧ s.syncReq = true
    · rw [grantStep_of_request h hr.1 hr.2] at ht
      cases ht
      exact (if_pos hr).symm
    · rw [grantStep_of_no_request hr] at ht
      cases ht
      exact (if_neg hr).symm
  | dispComplete => cases ht; exact completeStep_es h

end Sys2Proof
end

section
/-! SUPPORT. The ring as a FIFO (R156, R174), the tick gate (R132), what each agent's step leaves alone (R157, R236),
and what holds along runs: the countdown ends (R139, R140), nothing is sent during the silence (R152). -/

namespace Sys2Proof

open Sys2Proof.Machine Sys2Proof.Claims

/-! ### The ring (R25, R156, R174) -/

theorem length_waiting_of_inv {s : State} (h : BlockInv s) : (waiting s).length = waitingCount s :=
  length_waiting s (inv_bounds h).1 h.qLength

theorem ringFull_iff {s : State} (h : BlockInv s) : ringFull s = true ↔ (waiting s).length = s.par.qn - 1 := by
  obtain ⟨hq0, hq1, -⟩ := inv_bounds h
  obtain ⟨⟨hq2, -⟩, -⟩ := h.parLegal
  have hh := h.headInRing
  have ht := h.tailInRing
  rw [length_waiting_of_inv h, ringFull, beq_iff_eq, ← BitVec.toNat_inj, toNat_ringNext s s.head hq0 hq1, waitingCount,
    mod_below_twice _ _ (by omega), mod_below_twice _ _ (by omega)]
  split <;> split <;> omega

theorem ringEmpty_iff {s : State} (h : BlockInv s) : ringEmpty s = true ↔ waiting s = [] := by
  have hh := h.headInRing
  have ht := h.tailInRing
  rw [← List.length_eq_zero_iff, length_waiting_of_inv h, ringEmpty, beq_iff_eq, ← BitVec.toNat_inj, waitingCount,
    mod_below_twice _ _ (by omega)]
  split <;> omega

/-- What a poll may do to the queue: keep it, start its first entry from Idle, or flush it at the end of a silence
(R135, R152). -/
def RingPolled (s t : State) : Prop :=
  waiting t = waiting s ∨
    (s.es = .idle ∧ t.es = .tx ∧ ∃ x, waiting s = x :: waiting t ∧ t.cur = ⟨true, { x with sent := true }⟩) ∨
    (waiting t = [] ∧ s.rstPend = true ∧ s.es = .silent ∧ t.es = .idle)

theorem waiting_pollArm {s t : State} (h : BlockInv { s with guard := false }) (ht : pollArm s = .next t) :
    RingPolled s t := by
  rcases pollArm_cases ht with ⟨rfl, -⟩ | ⟨hes, -, -, hne, e, he, -, rfl⟩ | ⟨-, -, rfl⟩ | ⟨-, ha⟩ | ⟨-, rfl⟩ |
    ⟨-, rfl⟩ | ⟨-, rfl⟩ | ⟨hes, d, -, -, rfl⟩
  · exact .inl rfl
  · exact .inr (.inl ⟨hes, rfl, e, waiting_eq_cons_dequeued h hne he, rfl⟩)
  · exact .inl rfl
  · rw [awaitDecided_frame ha]; exact .inl rfl
  · exact .inl rfl
  · exact .inl rfl
  · exact .inl rfl
  · rw [flushIfPending_eq]
    cases hp : s.rstPend with
    | true => exact .inr (.inr ⟨waiting_flushed _ rfl, hp, hes, rfl⟩)
    | false => exact .inl rfl

theorem waiting_pollOnce {s t : State} (h : BlockInv s) (ht : pollOnce s = .next t) : RingPolled s t := by
  rcases pollOnce_eq_next ht with ⟨-, rfl⟩ | ⟨-, u, hu, rfl⟩
  · exact .inl rfl
  · have hinv : BlockInv { pollBegun s with guard := false } := { h with guardClear := rfl }
    have hcases := waiting_pollArm (s := pollBegun s) hinv hu
    exact hcases

/-- Settles O33: the bounds from the index arithmetic, then by cases on the step. -/
theorem ringIsAStrictFifo : Obligations.RingIsAStrictFifo := by
  intro e s t h ht
  rw [step_scheduled] at ht
  refine ⟨?_, ringFull_iff h, ringEmpty_iff h, ?_⟩
  · rw [length_waiting_of_inv h]
    exact waitingCount_lt s (inv_bounds h).1
  cases e with
  | command w =>
    cases commandStep_of_runCommand (inv_nb_le h) t ht with
    | polled hp hu v =>
      rcases waiting_pollOnce h hu with hkept | ⟨hes, htx, hstart⟩ | ⟨hempty, hflush⟩
      · exact .inl hkept
      · exact .inr (.inr (.inl ⟨hp, hes, htx, hstart⟩))
      · exact .inr (.inr (.inr ⟨hempty, .inr (.inr (.inr ⟨hp, hflush⟩))⟩))
    | enqueued hd hfull =>
      exact .inr (.inl ⟨hd, rfl,
        waiting_enqueue s _ h.qLength (inv_bounds h).2.1 h.headInRing h.tailInRing hfull⟩)
    | flushed hd hes => exact .inr (.inr (.inr ⟨waiting_flushed _ rfl, .inr (.inr (.inl ⟨hd, hes⟩))⟩))
    | resetPending => exact .inl rfl
    | aborted hd => exact .inr (.inr (.inr ⟨waiting_flushed _ rfl, .inr (.inl hd)⟩))
    | hostOnly _ _ hframe => rw [hframe]; exact .inl rfl
  | tick | rxIn => cases ht; exact .inl rfl
  | txOut =>
    cases ht
    obtain ⟨q, l, hq⟩ := txOutStep_eq s
    rw [hq]
    exact .inl rfl
  | dispGrant =>
    rcases grantStep_cases ht with rfl | ⟨-, -, -, rfl⟩
    · exact .inl rfl
    · exact .inl rfl
  | dispComplete =>
    cases ht
    rcases completeStep_cases s with hc | ⟨-, k, c, m, hc⟩
    · rw [hc]; exact .inl rfl
    · rw [hc]; exact .inl rfl
  | por => cases ht; exact .inr (.inr (.inr ⟨waiting_flushed _ rfl, .inl rfl⟩))

/-! ### The tick gate (R131, R132) -/

/-- A poll is ineffective and changes nothing, or effective and leaves its tick used (R132). -/
theorem pollOnce_uses_tick {s t : State} (h : pollOnce s = .next t) :
    (¬PollEffective s ∧ t = s) ∨ (PollEffective s ∧ t.lastMs = t.ms ∧ t.ms = s.ms ∧ t.guard = false) := by
  rcases pollOnce_eq_next h with hkept | ⟨heff, u, hu, rfl⟩
  · exact .inl hkept
  · have hms : u.ms = s.ms := by rw [pollArm_frame hu]; rfl
    have hlast : u.lastMs = s.ms := by rw [pollArm_frame hu]; rfl
    exact .inr ⟨heff, hlast.trans hms.symm, hms, rfl⟩

theorem polled_of_isPoll {e : Event} {s t : State} (hp : IsPoll e) (h : runEvent e s = .next t) :
    ∃ u v, pollOnce s = .next u ∧ t = respond false v u := by
  obtain ⟨w, rfl, hd | hd⟩ := hp
  · obtain ⟨u, hu, ht⟩ := andThen_eq_next ((runCommand_of_decode hd s).symm.trans h)
    exact ⟨u, _, hu, by cases ht; rfl⟩
  · obtain ⟨u, hu, ht⟩ := andThen_eq_next ((runCommand_of_decode hd s).symm.trans h)
    exact ⟨u, _, hu, by cases ht; rfl⟩

theorem hostWrite_of_not_isPoll {w : Word32} {s t : State} (hp : ¬IsPoll (.command w))
    (h : runCommand w s = .next t) : ∃ u err v, HostWrite s u ∧ t = respond err v u := by
  rw [isPoll_command_iff, not_or] at hp
  unfold runCommand at h
  split at h
  · rename_i i hd
    exact exec_writes i s (fun hi => hp.1 (hi ▸ hd)) (fun hi => hp.2 (hi ▸ hd)) t h
  · exact writesThenAnswers_refuse s _ t h

/-- The clocks, the line's output and what is no state of the block: no command but a poll writes them. -/
theorem HostWrite.clock_kept {s t : State} (h : HostWrite s t) :
    t.ms = s.ms ∧ t.lastMs = s.lastMs ∧ t.lineOut = s.lineOut ∧ t.par = s.par ∧ t.schedule = s.schedule := by
  cases h <;> exact ⟨rfl, rfl, rfl, rfl, rfl⟩

/-- The clocks, the line's output and what is no state of the block after a step of `e`, which is no power-on reset:
the tick alone moves MS, LINE.TXOUT alone adds to LINEOUT, and LASTMS changes in an effective poll only. -/
structure StepFrame (e : Event) (s t : State) : Prop where
  par : t.par = s.par
  schedule : t.schedule = s.schedule
  lineOut : e ≠ .txOut → t.lineOut = s.lineOut
  ms : e ≠ .tick → t.ms = s.ms
  lastMs : ¬(IsPoll e ∧ PollEffective s) → t.lastMs = s.lastMs
  polled : IsPoll e ∧ PollEffective s → t.lastMs = t.ms

theorem stepFrame_runCommand {w : Word32} {s t : State} (h : runCommand w s = .next t) :
    StepFrame (.command w) s t := by
  by_cases hp : IsPoll (.command w)
  · obtain ⟨u, v, hu, rfl⟩ := polled_of_isPoll hp h
    rcases pollOnce_uses_tick hu with ⟨hne, rfl⟩ | ⟨heff, hlast, hms, -⟩
    · exact ⟨rfl, rfl, fun _ => rfl, fun _ => rfl, fun _ => rfl, fun ⟨_, heff⟩ => absurd heff hne⟩
    · rw [pollOnce_frame hu] at hlast ⊢
      exact ⟨rfl, rfl, fun _ => rfl, fun _ => rfl, fun hne => absurd ⟨hp, heff⟩ hne, fun _ => hlast⟩
  · obtain ⟨u, err, v, hw, rfl⟩ := hostWrite_of_not_isPoll hp h
    obtain ⟨hms, hlast, hline, hpar, hsched⟩ := hw.clock_kept
    exact ⟨hpar, hsched, fun _ => hline, fun _ => hms, fun _ => hlast, fun ⟨hp', _⟩ => absurd hp' hp⟩

theorem stepFrame_runEvent {e : Event} {s t : State} (hpor : e ≠ .por) (h : runEvent e s = .next t) :
    StepFrame e s t := by
  cases e with
  | command w => exact stepFrame_runCommand h
  | tick => cases h; exact ⟨rfl, rfl, fun _ => rfl, fun hne => absurd rfl hne, fun _ => rfl, nofun⟩
  | rxIn => cases h; exact ⟨rfl, rfl, fun _ => rfl, fun _ => rfl, fun _ => rfl, nofun⟩
  | txOut =>
    cases h
    obtain ⟨q, l, hq⟩ := txOutStep_eq s
    rw [hq]
    exact ⟨rfl, rfl, fun hne => absurd rfl hne, fun _ => rfl, fun _ => rfl, nofun⟩
  | dispGrant =>
    rcases grantStep_cases h with rfl | ⟨-, -, -, rfl⟩
    · exact ⟨rfl, rfl, fun _ => rfl, fun _ => rfl, fun _ => rfl, nofun⟩
    · exact ⟨rfl, rfl, fun _ => rfl, fun _ => rfl, fun _ => rfl, nofun⟩
  | dispComplete =>
    cases h
    rcases completeStep_cases s with hc | ⟨-, k, c, m, hc⟩
    · rw [hc]; exact ⟨rfl, rfl, fun _ => rfl, fun _ => rfl, fun _ => rfl, nofun⟩
    · rw [hc]; exact ⟨rfl, rfl, fun _ => rfl, fun _ => rfl, fun _ => rfl, nofun⟩
  | por => exact absurd rfl hpor

/-- A tick that has been used stays used but for the next tick (R131, R132). -/
theorem StepFrame.used_kept {e : Event} {s t : State} (h : StepFrame e s t) (htick : e ≠ .tick)
    (hused : s.lastMs = s.ms) : t.lastMs = t.ms := by
  have hne : ¬(IsPoll e ∧ PollEffective s) := fun ⟨_, hms, _⟩ => hms hused.symm
  rw [h.lastMs hne, hused, h.ms htick]

theorem stateCode_eq_engineCode (e : EngineState) : (stateCode e).setWidth 16 = engineCode e := by cases e <;> decide

theorem exec_getState_of_pollOnce {s u : State} (h : pollOnce s = .next u) :
    exec .getState s = .next (accepted (engineCode u.es) u) := by
  rw [exec, execGetState, h, andThen_next, accept_eq_accepted, stateCode_eq_engineCode]

/-- Settles O34: the gate, `pollOnce_uses_tick` for an effective poll, `StepFrame` for the steps between. -/
theorem onePollPerTickIsEffective : Obligations.OnePollPerTickIsEffective := by
  refine ⟨fun s hused => ?_, fun s t ht => ?_, fun e s t hp heff ht => ?_, fun e s t htick ht hlast => ?_,
    fun s t ht => ?_, bareEncoding fun _ _ => rfl⟩
  · have hpoll := pollOnce_of_used hused
    exact ⟨exec_poll_of_pollOnce hpoll, exec_getState_of_pollOnce hpoll⟩
  · obtain ⟨u, hu, hanswer⟩ := andThen_eq_next (f := accept 0) ht
    cases hanswer
    rcases pollOnce_uses_tick hu with ⟨hne, rfl⟩ | ⟨-, hlast, hms, hguard⟩
    · exact ⟨exec_poll_of_pollOnce (pollOnce_of_not_effective hne), fun heff => absurd heff hne⟩
    · exact ⟨exec_poll_of_pollOnce (pollOnce_of_used (.inl hlast.symm)), fun _ => ⟨hlast, hms, hguard⟩⟩
  · obtain ⟨u, v, hu, rfl⟩ := polled_of_isPoll hp ht
    rcases pollOnce_uses_tick hu with ⟨hne, -⟩ | ⟨-, hused⟩
    · exact absurd heff hne
    · exact hused
  · rw [step_scheduled] at ht
    by_cases hpor : e = .por
    · subst hpor; cases ht; rfl
    · exact (stepFrame_runEvent hpor ht).used_kept htick hlast
  · cases ht; rfl

/-! ### The tick and the line (R131, R51, R236) -/

/-- Settles O45: the tick and the line by definition, the frame of the others by cases on the agent. -/
theorem tickAndLineSteps : Obligations.TickAndLineSteps := by
  refine ⟨fun s => ?_, fun b s => rfl, fun s hq => ?_, fun b rest s hq => ?_, fun e s t htick hpor ht => ?_⟩
  · have hms : s.ms + 1 = BitVec.ofNat 32 (s.ms.toNat + 1) := by simp [BitVec.ofNat_add]
    rw [step_scheduled, runEvent, tickStep, hms]
  · rw [step_scheduled, runEvent, txOutStep, hq]
  · rw [step_scheduled, runEvent, txOutStep, hq]
  · rw [step_scheduled] at ht
    have hframe := stepFrame_runEvent hpor ht
    exact ⟨hframe.ms htick, hframe.par, hframe.lineOut⟩

/-! ### What the engine leaves to the host, and what it adds to TXQ (R157, R21, R51) -/

/-- The host's state: the staging message, the CRC unit, the configuration with its copy in the transport. -/
def hostState (s : State) :=
  (s.stg, s.crc, s.crcOk, s.ctrl, s.baud, s.timeout, s.sil, s.tbaud, s.par)

/-- What is queued stays, and bytes come to it only from Idle. -/
def TxqGrows (s t : State) : Prop := ∃ bs, t.txq = s.txq ++ bs ∧ (bs ≠ [] → s.es = .idle)

theorem TxqGrows.of_eq {s t : State} (h : t.txq = s.txq) : TxqGrows s t := ⟨[], by simp [h], fun hne => absurd rfl hne⟩

theorem txqGrows_started {s u : State} (hes : s.es = .idle) (h : u.txq = s.txq) : TxqGrows s (started u) :=
  ⟨_, congrArg (· ++ _) h, fun _ => hes⟩

theorem txqGrows_pollArm {s t : State} (h : pollArm s = .next t) : TxqGrows s t := by
  rcases pollArm_cases h with ⟨rfl, -⟩ | ⟨hes, -, -, -, e, -, -, rfl⟩ | ⟨-, -, rfl⟩ | ⟨-, ha⟩ | ⟨-, rfl⟩ | ⟨-, rfl⟩ |
    ⟨-, rfl⟩ | ⟨-, d, -, -, rfl⟩
  · exact .of_eq rfl
  · exact txqGrows_started hes rfl
  · exact .of_eq rfl
  · exact .of_eq (by rw [awaitDecided_frame ha])
  · exact .of_eq rfl
  · exact .of_eq rfl
  · exact .of_eq rfl
  · exact .of_eq (by rw [flushIfPending_eq])

theorem txqGrows_pollOnce {s t : State} (h : pollOnce s = .next t) : TxqGrows s t := by
  rcases pollOnce_eq_next h with ⟨-, rfl⟩ | ⟨-, u, hu, rfl⟩
  · exact .of_eq rfl
  · have hgrows := txqGrows_pollArm hu
    exact hgrows

theorem txOutStep_txq (s : State) : (txOutStep s).txq = s.txq.drop 1 := by
  unfold txOutStep
  cases hq : s.txq with
  | nil => exact hq
  | cons b rest => rfl

/-- The steps of the engine and its surroundings: all but the host's other commands and power-on reset. -/
theorem engineStep_frame {e : Event} {s t : State}
    (he : IsPoll e ∨ e = .dispGrant ∨ e = .dispComplete ∨ e = .tick ∨ e = .txOut ∨ ∃ b, e = .rxIn b)
    (h : runEvent e s = .next t) : hostState t = hostState s ∧ (e ≠ .txOut → TxqGrows s t) := by
  rcases he with hp | rfl | rfl | rfl | rfl | ⟨b, rfl⟩
  · obtain ⟨u, v, hu, rfl⟩ := polled_of_isPoll hp h
    have hgrows := txqGrows_pollOnce hu
    have hhost := congrArg hostState (pollOnce_frame hu)
    exact ⟨hhost, fun _ => hgrows⟩
  · rcases grantStep_cases h with rfl | ⟨-, hes, -, rfl⟩
    · exact ⟨rfl, fun _ => .of_eq rfl⟩
    · exact ⟨rfl, fun _ => txqGrows_started hes rfl⟩
  · cases h
    rcases completeStep_cases s with hc | ⟨-, k, c, m, hc⟩
    · rw [hc]; exact ⟨rfl, fun _ => .of_eq rfl⟩
    · rw [hc]; exact ⟨rfl, fun _ => .of_eq rfl⟩
  · cases h; exact ⟨rfl, fun _ => .of_eq rfl⟩
  · cases h
    obtain ⟨q, l, hq⟩ := txOutStep_eq s
    rw [hq]
    exact ⟨rfl, fun hne => absurd rfl hne⟩
  · cases h; exact ⟨rfl, fun _ => .of_eq rfl⟩

/-- Settles O44: `engineStep_frame`, and the oldest byte for LINE.TXOUT. -/
theorem engineStepsLeaveTheHostsStateAlone : Obligations.EngineStepsLeaveTheHostsStateAlone := by
  intro e s t he ht
  rw [step_scheduled] at ht
  obtain ⟨hhost, hgrows⟩ := engineStep_frame he ht
  simp only [hostState, Prod.mk.injEq] at hhost
  obtain ⟨hstg, hcrc, hok, hctrl, hbaud, htimeout, hsil, htbaud, hpar⟩ := hhost
  refine ⟨hstg, hcrc, hok, hctrl, hbaud, htimeout, hsil, htbaud, hpar, ?_, hgrows⟩
  rintro rfl
  cases ht
  exact txOutStep_txq s

/-! ### A packet in flight, between the polls (R139, R152) -/

/-- ES, the countdown and the silence timer as before, and no byte more in TXQ. -/
def EngineKept (s t : State) : Prop :=
  t.es = s.es ∧ t.tocnt = s.tocnt ∧ t.silt0 = s.silt0 ∧ ∃ k, t.txq = s.txq.drop k

theorem engineKept_refl (s : State) : EngineKept s s := ⟨rfl, rfl, rfl, 0, rfl⟩

/-- Outside Idle and the terminal states nothing but a poll or a reset moves the engine. -/
theorem engineKept_runEvent {e : Event} {s t : State} (h : BlockInv s) (hidle : s.es ≠ .idle)
    (hterm : terminalState s.es = false) (hpor : e ≠ .por) (habort : ¬IsCommand .rstAbort e)
    (hpoll : IsPoll e → ∀ u, pollOnce s = .next u → EngineKept s u) (ht : runEvent e s = .next t) :
    EngineKept s t := by
  cases e with
  | command w =>
    have hstep := commandStep_of_runCommand (inv_nb_le h) t ht
    by_cases hp : IsPoll (.command w)
    · obtain ⟨u, v, hu, rfl⟩ := polled_of_isPoll hp ht
      have hkept := hpoll hp u hu
      exact hkept
    · rw [hstep.frame hp habort]; exact engineKept_refl s
  | tick | rxIn => cases ht; exact engineKept_refl s
  | txOut =>
    cases ht
    have htxq := txOutStep_txq s
    obtain ⟨q, l, hq⟩ := txOutStep_eq s
    rw [hq] at htxq ⊢
    exact ⟨rfl, rfl, rfl, 1, htxq⟩
  | dispGrant =>
    rcases grantStep_cases ht with rfl | ⟨-, hes, -⟩
    · exact engineKept_refl _
    · exact absurd hes hidle
  | dispComplete =>
    cases ht
    rcases completeStep_cases s with hc | ⟨ht, -⟩
    · rw [hc]; exact engineKept_refl s
    · exact absurd (hterm.symm.trans ht) Bool.false_ne_true
  | por => exact absurd rfl hpor

/-! ### Runs of scheduled events (R70) -/

theorem step_of_schedule {e : Event} {rest : List Event} {s : State} (h : s.schedule = e :: rest) :
    step s = runEvent e { s with schedule := rest } := by simp [step, h]

theorem run_succ_of_step {M : Host.Core} {n : Nat} {s t : M.State} (h : M.step s = .next t) :
    M.run (n + 1) s = M.run n t := by simp only [Host.Core.run, h]

theorem run_succ_eq_next {M : Host.Core} {n : Nat} {s t : M.State} (h : M.run (n + 1) s = .next t) :
    ∃ u, M.step s = .next u ∧ M.run n u = .next t := by
  unfold Host.Core.run at h
  split at h
  · exact ⟨_, ‹_›, h⟩
  · cases h
  · cases h

/-! ### The countdown ends (R139, R140) -/

theorem awaitReply_poll {s t : State} (hes : s.es = .awaitReply) (heff : PollEffective s)
    (h : pollOnce s = .next t) : t.tocnt = s.tocnt - 1 := by
  rcases pollOnce_eq_next h with ⟨hne, -⟩ | ⟨-, u, hu, rfl⟩
  · exact absurd heff hne
  · rw [pollArm_awaitReply (s := pollBegun s) hes] at hu
    exact congrArg State.tocnt (awaitDecided_frame hu)

theorem awaitReply_step {e : Event} {s t : State} (h : BlockInv s) (hes : s.es = .awaitReply)
    (ht : runEvent e s = .next t) :
    (IsPoll e ∧ PollEffective s → t.es ≠ .awaitReply ∨ (t.es = .awaitReply ∧ t.tocnt.toNat + 1 = s.tocnt.toNat)) ∧
    (¬(IsPoll e ∧ PollEffective s) → e ≠ .por → ¬IsCommand .rstAbort e → t.es = .awaitReply ∧ t.tocnt = s.tocnt) := by
  refine ⟨fun ⟨hp, heff⟩ => ?_, fun hne hpor habort => ?_⟩
  · obtain ⟨u, v, hu, rfl⟩ := polled_of_isPoll hp ht
    have hcount : u.tocnt = s.tocnt - 1 := awaitReply_poll hes heff hu
    have harmed := (h.countdownArmed (.inr hes)).1
    refine (ne_or_eq u.es .awaitReply).imp_right fun hu => ⟨hu, ?_⟩
    rw [respond_tocnt, hcount]
    bv_omega
  · have hkept : EngineKept s t := by
      refine engineKept_runEvent h (by simp [hes]) (by simp [hes, terminalState]) hpor habort (fun hp u hu => ?_) ht
      rcases pollOnce_eq_next hu with ⟨-, rfl⟩ | ⟨heff, -⟩
      · exact engineKept_refl _
      · exact absurd ⟨hp, heff⟩ hne
    obtain ⟨hes', hcount, -⟩ := hkept
    exact ⟨hes'.trans hes, hcount⟩

/-- Within `n` steps the engine leaves AwaitReply. -/
def EndsWithin (n : Nat) (s : State) : Prop :=
  ∃ m t, m ≤ n ∧ Sys2Proof.core.run m s = .next t ∧ t.es ≠ .awaitReply

theorem endsWithin_now {n : Nat} {s : State} (h : s.es ≠ .awaitReply) : EndsWithin n s := ⟨0, s, n.zero_le, rfl, h⟩

theorem endsWithin_succ {n : Nat} {s t : State} (hs : step s = .next t) (h : EndsWithin n t) :
    EndsWithin (n + 1) s := by
  obtain ⟨m, u, hm, hrun, hu⟩ := h
  exact ⟨m + 1, u, Nat.succ_le_succ hm, (run_succ_of_step (M := Sys2Proof.core) hs).trans hrun, hu⟩

/-- AwaitReply with these events to come: `k` ticks of the countdown are left after the one at hand, which counts
until a poll has used it. -/
structure Awaiting (k : Nat) (sched : List Event) (s : State) : Prop where
  inv : BlockInv s
  es : s.es = .awaitReply
  schedule : s.schedule = sched
  countdown : s.tocnt.toNat ≤ k + 1
  used : s.lastMs = s.ms → s.tocnt.toNat ≤ k

/-- Any step but a tick or a reset ends the wait or keeps the count, and a poll uses the tick at hand. -/
theorem Awaiting.step {k : Nat} {e : Event} {sched : List Event} {s : State} (h : Awaiting k (e :: sched) s)
    (htick : e ≠ .tick) (hpor : e ≠ .por) (habort : ¬IsCommand .rstAbort e) :
    ∃ t, Machine.step s = .next t ∧
      (t.es ≠ .awaitReply ∨ (Awaiting k sched t ∧ (IsPoll e → t.lastMs = t.ms))) := by
  have hinv : BlockInv { s with schedule := sched } := { h.inv with }
  obtain ⟨t, ht⟩ := runEvent_runs hinv e
  refine ⟨t, (step_of_schedule h.schedule).trans ht, (ne_or_eq t.es .awaitReply).imp_right fun hes => ?_⟩
  have hframe := stepFrame_runEvent hpor ht
  have hms := hframe.ms htick
  have hcount := h.countdown
  obtain ⟨hpoll, hother⟩ := awaitReply_step hinv h.es ht
  by_cases heff : IsPoll e ∧ PollEffective { s with schedule := sched }
  · obtain ⟨-, hless⟩ := (hpoll heff).resolve_left fun hne => hne hes
    replace hless : t.tocnt.toNat + 1 = s.tocnt.toNat := hless
    exact ⟨⟨inv_runEvent hinv ht, hes, hframe.schedule, by omega, fun _ => by omega⟩, fun _ => hframe.polled heff⟩
  · obtain ⟨-, hsame⟩ := hother heff hpor habort
    replace hsame : t.tocnt = s.tocnt := hsame
    have hlast := hframe.lastMs heff
    have hused : t.lastMs = t.ms ↔ s.lastMs = s.ms := by rw [hlast, hms]
    refine ⟨⟨inv_runEvent hinv ht, hes, hframe.schedule, hsame ▸ hcount, fun hu => ?_⟩, fun hp => hused.2 ?_⟩
    · exact hsame ▸ h.used (hused.1 hu)
    · exact (not_not.1 fun hms' => heff ⟨hp, hms', h.inv.guardClear⟩).symm

/-- After a tick found used, one tick of the countdown is the one at hand. -/
theorem awaiting_tick {k : Nat} {sched : List Event} {s : State} (h : BlockInv s) (hes : s.es = .awaitReply)
    (hsched : s.schedule = .tick :: sched) (hused : s.lastMs = s.ms) (hcount : s.tocnt.toNat ≤ k + 1) :
    ∃ t, step s = .next t ∧ Awaiting k sched t := by
  have hinv : BlockInv { s with schedule := sched } := { h with }
  refine ⟨_, step_of_schedule hsched, inv_runEvent (e := .tick) hinv rfl, hes, rfl, hcount, fun hlast => ?_⟩
  have hnext : s.lastMs = s.ms + 1 := hlast
  rw [hused] at hnext
  exact absurd hnext (by bv_omega)

theorem endsWithin_others {k n : Nat} {others sched : List Event} {s : State} (h : Awaiting k (others ++ sched) s)
    (ho : ∀ e ∈ others, e ≠ .tick ∧ e ≠ .por ∧ ¬IsCommand .rstAbort e)
    (hrest : ∀ t, Awaiting k sched t → EndsWithin n t) : EndsWithin (others.length + n) s := by
  induction others generalizing s with
  | nil => rw [List.length_nil, Nat.zero_add]; exact hrest s h
  | cons e others ih =>
    obtain ⟨htick, hpor, habort⟩ := ho e List.mem_cons_self
    obtain ⟨t, hs, ht⟩ := h.step htick hpor habort
    rw [List.length_cons, Nat.add_right_comm]
    refine endsWithin_succ hs (ht.elim endsWithin_now fun ⟨hawait, _⟩ => ih hawait fun e he => ?_)
    exact ho e (List.mem_cons_of_mem _ he)

theorem endsWithin_ticks {ticks : List (List Event)} {rest : List Event} {s : State} (h : BlockInv s)
    (hes : s.es = .awaitReply) (hused : s.lastMs = s.ms) (hticks : ∀ es ∈ ticks, PolledTick es)
    (hcount : s.tocnt.toNat ≤ ticks.length) (hsched : s.schedule = ticks.flatten ++ rest) :
    EndsWithin ticks.flatten.length s := by
  induction ticks generalizing s with
  | nil =>
    have harmed := (h.countdownArmed (.inr hes)).1
    exact absurd (harmed.trans hcount) (by decide)
  | cons block ticks ih =>
    obtain ⟨others, p, rfl, hp, ho⟩ := hticks _ List.mem_cons_self
    have hlen : (List.flatten ((.tick :: (others ++ [p])) :: ticks)).length =
        others.length + (ticks.flatten.length + 1) + 1 := by simp
    rw [hlen]
    obtain ⟨t, hs, ht⟩ := awaiting_tick (k := ticks.length) (sched := others ++ (p :: (ticks.flatten ++ rest))) h hes
      (by simp [hsched]) hused hcount
    refine endsWithin_succ hs (endsWithin_others ht ho fun u hu => ?_)
    obtain ⟨w, rfl, hd⟩ := id hp
    have habort : ¬IsCommand .rstAbort (.command w) := by
      rw [isCommand_command_iff]; rcases hd with hd | hd <;> simp [hd]
    obtain ⟨v, hv, hend⟩ := hu.step nofun nofun habort
    refine endsWithin_succ hv (hend.elim endsWithin_now fun ⟨hawait, hpolled⟩ => ?_)
    have hlast := hpolled hp
    exact ih hawait.inv hawait.es hlast (fun es hes => hticks es (List.mem_cons_of_mem _ hes)) (hawait.used hlast)
      hawait.schedule

/-- Settles O58: the step by `awaitReply_step`, the run by induction on its ticks. -/
theorem awaitReplyEndsWithinItsCountdown : Obligations.AwaitReplyEndsWithinItsCountdown := by
  refine ⟨fun e s t h hes ht => awaitReply_step h hes ht, fun s ticks rest h hes hused hticks hcount hsched => ?_⟩
  exact endsWithin_ticks h hes hused hticks hcount.ge hsched

/-! ### Nothing is sent during the silence (R152, R150) -/

/-- A step that writes no timing leaves the silence in force as it is (R196). -/
theorem silenceNow_runEvent {e : Event} {s t : State} (h : BlockInv s) (hpor : e ≠ .por) (htiming : ¬ChangesTiming e)
    (ht : runEvent e s = .next t) : silenceNow t = silenceNow s := by
  have hkept : t.baud = s.baud ∧ t.sil = s.sil := by
    cases e with
    | command w =>
      cases commandStep_of_runCommand (inv_nb_le h) t ht with
      | polled hp hu v =>
        have hframe := congrArg (fun u => (State.baud u, State.sil u)) (pollOnce_frame hu)
        exact Prod.mk.inj hframe
      | enqueued | flushed | resetPending | aborted => exact ⟨rfl, rfl⟩
      | hostOnly _ _ _ hquiet => exact hquiet htiming
    | tick | rxIn => cases ht; exact ⟨rfl, rfl⟩
    | txOut =>
      cases ht
      obtain ⟨q, l, hq⟩ := txOutStep_eq s
      rw [hq]
      exact ⟨rfl, rfl⟩
    | dispGrant =>
      rcases grantStep_cases ht with rfl | ⟨-, -, -, rfl⟩
      · exact ⟨rfl, rfl⟩
      · exact ⟨rfl, rfl⟩
    | dispComplete =>
      cases ht
      rcases completeStep_cases s with hc | ⟨-, k, c, m, hc⟩
      · rw [hc]; exact ⟨rfl, rfl⟩
      · rw [hc]; exact ⟨rfl, rfl⟩
    | por => exact absurd rfl hpor
  rw [silenceNow, silenceNow, hkept.1, hkept.2, (stepFrame_runEvent hpor ht).par]

theorem silent_poll_holds {s t : State} (hes : s.es = .silent) (hb : s.baud.toNat < s.par.nb)
    (hleft : (s.ms - s.silt0).toNat < silenceNow s) (h : pollOnce s = .next t) : EngineKept s t := by
  rcases pollOnce_eq_next h with ⟨-, rfl⟩ | ⟨-, u, hu, rfl⟩
  · exact engineKept_refl _
  · rw [(pollArm_silent (s := pollBegun s) hes hb).trans (if_neg (Nat.not_le.2 hleft))] at hu
    cases hu
    exact engineKept_refl s

/-- While the silence lasts every step but a reset keeps the engine in it (R152). -/
theorem silent_step {e : Event} {s t : State} (h : BlockInv s) (hes : s.es = .silent)
    (hleft : (s.ms - s.silt0).toNat < silenceNow s) (hpor : e ≠ .por) (habort : ¬IsCommand .rstAbort e)
    (ht : runEvent e s = .next t) : EngineKept s t :=
  engineKept_runEvent h (by simp [hes]) (by simp [hes, terminalState]) hpor habort
    (fun _ _ hu => silent_poll_holds hes h.baudInTable hleft hu) ht

/-- A tick brings the end of the silence nearer by one at most, and no other step does. -/
theorem elapsed_step {e : Event} {s t : State} (hkept : EngineKept s t) (hpor : e ≠ .por)
    (ht : runEvent e s = .next t) :
    (t.ms - t.silt0).toNat ≤ (s.ms - s.silt0).toNat + if e = .tick then 1 else 0 := by
  obtain ⟨-, -, hsilt0, -⟩ := hkept
  rw [hsilt0]
  split
  · subst e
    cases ht
    show (s.ms + 1 - s.silt0).toNat ≤ _
    bv_omega
  · rw [(stepFrame_runEvent hpor ht).ms ‹_›]
    omega

/-- The ticks among these events. -/
def ticksIn (es : List Event) : Nat := (es.filter (· == .tick)).length

theorem ticksIn_cons (e : Event) (es : List Event) :
    ticksIn (e :: es) = (if e = .tick then 1 else 0) + ticksIn es := by
  by_cases h : e = .tick <;> simp [ticksIn, h, Nat.add_comm]

theorem silent_run {n : Nat} {s t : State} (h : BlockInv s) (hes : s.es = .silent)
    (hevents : ∀ e ∈ s.schedule.take n, e ≠ .por ∧ ¬IsCommand .rstAbort e ∧ ¬ChangesTiming e)
    (hleft : (s.ms - s.silt0).toNat + ticksIn (s.schedule.take n) < silenceNow s)
    (hrun : Sys2Proof.core.run n s = .next t) : t.es = .silent ∧ ∃ k, t.txq = s.txq.drop k := by
  induction n generalizing s with
  | zero => cases hrun; exact ⟨hes, 0, rfl⟩
  | succ n ih =>
    obtain ⟨u, hu, hrest⟩ := run_succ_eq_next (M := Sys2Proof.core) hrun
    rcases step_cases hu with ⟨hnil, rfl⟩ | ⟨e, rest, hcons, he⟩
    · have hnone (m : Nat) : u.schedule.take m = [] := by simp [hnil]
      rw [hnone] at hleft
      exact ih h hes (by simp [hnone]) (by rwa [hnone]) hrest
    · rw [hcons, List.take_succ_cons] at hevents hleft
      obtain ⟨hpor, habort, htiming⟩ := hevents e List.mem_cons_self
      have hinv : BlockInv { s with schedule := rest } := { h with }
      have hkept := silent_step hinv hes (Nat.lt_of_le_of_lt (Nat.le_add_right _ _) hleft) hpor habort he
      have helapsed := elapsed_step hkept hpor he
      have hsilence := silenceNow_runEvent hinv hpor htiming he
      have hsched : u.schedule = rest := (stepFrame_runEvent hpor he).schedule
      obtain ⟨hes', -, -, k, hk⟩ := hkept
      have hbefore : (u.ms - u.silt0).toNat + ticksIn (u.schedule.take n) < silenceNow u := by
        rw [ticksIn_cons, ← Nat.add_assoc] at hleft
        rw [hsilence, hsched]
        exact Nat.lt_of_le_of_lt (Nat.add_le_add_right helapsed _) hleft
      obtain ⟨hend, m, hm⟩ := ih (inv_runEvent hinv he) (hes'.trans hes)
        (hsched ▸ fun e' he' => hevents e' (List.mem_cons_of_mem _ he')) hbefore hrest
      exact ⟨hend, k + m, by rw [hm, hk, List.drop_drop]⟩

/-- Settles O59: by induction on the steps, with the time elapsed and the ticks to come below the silence in force. -/
theorem nothingIsSentDuringTheSilence : Obligations.NothingIsSentDuringTheSilence := by
  intro n s t h hes hsilt0 hevents hticks hrun
  refine silent_run h hes hevents ?_ hrun
  rwa [hsilt0, BitVec.sub_self, BitVec.toNat_zero, Nat.zero_add]

end Sys2Proof
end

section
/-! SUPPORT. The two sends: the admission test's reasons in their order, and what an accepted SEND.A enqueues
(R170 to R172). -/

namespace Sys2Proof

open Sys2Proof.Machine Sys2Proof.Claims

/-! ### The admission test's reasons (R170) -/

theorem ready_iff (s : State) : ready s = true ↔ IsReady s := Bool.and_eq_true_iff

theorem admission_of_not_ready {s : State} (blocking : Bool) (h : ¬IsReady s) :
    admission blocking s = some .notReady := if_pos (Bool.eq_false_iff.2 ((ready_iff s).not.2 h))

/-- Past reason 6, SEND.S asks whether the sync slot is occupied. -/
theorem admission_of_occupied {s : State} (hr : IsReady s) (h : s.syncReq = true ∨ s.syncBusy = true) :
    admission true s = some .syncOccupied := by
  have hready := (ready_iff s).2 hr
  have hocc : (s.syncReq || s.syncBusy) = true := Bool.or_eq_true_iff.2 h
  simp [admission, hready, hocc]

/-- Past reasons 6 and 7, the lengths decide. -/
theorem admission_of_badLengths {s : State} {blocking : Bool} (hr : IsReady s)
    (hfree : blocking = true → s.syncReq = false ∧ s.syncBusy = false) (h : ¬StagedLengthsLegal s) :
    admission blocking s = some .badLengths := by
  have hready := (ready_iff s).2 hr
  have hfree' : (blocking && (s.syncReq || s.syncBusy)) = false := by simpa using hfree
  have hlen : ¬Message.lengthsLegal s.par.aduCap s.stg.msg := h
  simp [admission, hready, hfree', hlen]

theorem admission_sendA_of_legal {s : State} (hr : IsReady s) (hl : StagedLengthsLegal s) :
    admission false s = none :=
  (admission_eq_none false s).2 ⟨(ready_iff s).2 hr, fun h => absurd h Bool.false_ne_true, hl⟩

theorem exec_sendA_of_refused {s : State} {r : Reason} (h : admission false s = some r) :
    exec .sendA s = .next (refusedFor (reasonCode r).toNat s) := by
  simp only [exec, execSendA, h, refuse_eq_refusedFor]

theorem exec_sendS_of_refused {s : State} {r : Reason} (h : admission true s = some r) :
    exec .sendS s = .next (refusedFor (reasonCode r).toNat s) := by
  simp only [exec, execSendS, h, refuse_eq_refusedFor]

/-- Settles O30: each clause is one outcome of the admission test, in its order. -/
theorem sendsAreRefusedInOrder : Obligations.SendsAreRefusedInOrder := fun _ =>
  ⟨fun hnot => ⟨exec_sendA_of_refused (admission_of_not_ready false hnot),
      exec_sendS_of_refused (admission_of_not_ready true hnot)⟩,
    fun hr hocc => exec_sendS_of_refused (admission_of_occupied hr hocc),
    fun hr hbad => exec_sendA_of_refused (admission_of_badLengths hr (fun h => absurd h Bool.false_ne_true) hbad),
    fun hr hreq hbusy hbad => exec_sendS_of_refused (admission_of_badLengths hr (fun _ => ⟨hreq, hbusy⟩) hbad)⟩

/-! ### An admitted SEND.A (R171) -/

theorem ringFull_eq_true_iff_nextIndex (s : State) : ringFull s = true ↔ nextIndex s s.head = s.tail := beq_iff_eq

theorem exec_sendA_of_full {s : State} (hadm : admission false s = none) (hfull : ringFull s = true) :
    exec .sendA s = .next (accepted 0 s) := by
  simp only [exec, execSendA, hadm, if_pos hfull, accept_eq_accepted]

theorem exec_sendA_of_room {s : State} (hadm : admission false s = none) (hfull : ¬ringFull s = true)
    (hslot : s.head.toNat < s.q.length) :
    exec .sendA s = .next (accepted 1 (enqueue (stagedEntry true s) s)) := by
  simp only [exec, execSendA, hadm, if_neg hfull, if_neg (Nat.not_le.2 hslot), accept_eq_accepted]

/-- Settles O31: the two sides of the full test; the copy's buffer is `crcAppend`'s, by `crcAppend_stored`. -/
theorem sendAEnqueuesACopyOrReportsFull : Obligations.SendAEnqueuesACopyOrReportsFull := by
  refine ⟨fun s hr hl hfull => ?_, fun s hr hl hroom hslot hwf => ⟨_, crcAppend_stored _ _ hwf, ?_⟩,
    bareEncoding fun _ _ => rfl⟩
  · exact exec_sendA_of_full (admission_sendA_of_legal hr hl) ((ringFull_eq_true_iff_nextIndex s).2 hfull)
  · exact exec_sendA_of_room (admission_sendA_of_legal hr hl) ((ringFull_eq_true_iff_nextIndex s).not.2 hroom) hslot

end Sys2Proof
end

section
/-! SUPPORT. The blocking dispatcher: the request SEND.S latches (R181), the grant that starts it (R184), the delivery
that answers it (R186), and the life of the call between them (R182, R26). -/

namespace Sys2Proof

open Sys2Proof.Machine Sys2Proof.Claims

/-! ### An admitted SEND.S (R181) -/

theorem admission_sendS_of_legal {s : State} (hr : IsReady s) (hreq : s.syncReq = false) (hbusy : s.syncBusy = false)
    (hl : StagedLengthsLegal s) : admission true s = none :=
  (admission_eq_none true s).2 ⟨(ready_iff s).2 hr, fun _ => ⟨hreq, hbusy⟩, hl⟩

theorem exec_sendS_of_admitted {s : State} (hadm : admission true s = none) :
    exec .sendS s = .next (accepted 0 { s with sync := stagedEntry false s, syncReq := true }) := by
  simp only [exec, execSendS, hadm, accept_eq_accepted]

/-- Settles O32: the request passes the admission test; the copy's buffer is `crcAppend`'s, by `crcAppend_stored`. -/
theorem sendSLatchesTheRequest : Obligations.SendSLatchesTheRequest :=
  ⟨fun _ hr hreq hbusy hl hwf =>
    ⟨_, crcAppend_stored _ _ hwf, exec_sendS_of_admitted (admission_sendS_of_legal hr hreq hbusy hl)⟩,
    bareEncoding fun _ _ => rfl⟩

/-! ### DISP.GRANT (R184) -/

/-- Settles O46: the two sides of the enabling test. -/
theorem grantStartsTheBlockingRequest : Obligations.GrantStartsTheBlockingRequest := by
  refine ⟨fun s hr hes hv hlen => ?_, fun s hblocked => ?_⟩
  · rw [step_scheduled, runEvent, grantStep_eq, if_pos ((grantEnabled_iff s).2 ⟨hr, hes, hv⟩), startTx_eq,
      started_eq_transmitting]
    exact if_pos hlen
  · rw [step_scheduled, runEvent, grantStep_eq]
    refine if_neg fun hen => ?_
    obtain ⟨hr, hes, hv⟩ := (grantEnabled_iff s).1 hen
    rcases hblocked with hreq | hidle | hvalid
    · exact absurd (hreq.symm.trans hr) Bool.false_ne_true
    · exact hidle hes
    · exact absurd (hv.symm.trans hvalid) Bool.false_ne_true

/-! ### DISP.COMPLETE (R186) -/

theorem terminalState_iff (e : EngineState) :
    terminalState e = true ↔ e = .gotReply ∨ e = .timeout ∨ e = .exception := by
  cases e <;> decide

theorem completeEnabled_iff (s : State) :
    completeEnabled s = true ↔ s.cur.valid = true ∧ s.cur.entry.async = false ∧
      (s.es = .gotReply ∨ s.es = .timeout ∨ s.es = .exception) := by
  simp [completeEnabled, terminalState_iff, and_assoc]

theorem completeStep_of_not_enabled {s : State} (h : ¬completeEnabled s = true) : completeStep s = s := if_neg h

/-- Enabled, DISP.COMPLETE delivers the record that the poll's arm would (R186, R146 to R148). -/
theorem completeStep_eq_deliver {s : State} (h : completeEnabled s = true) :
    ∃ k c m, completeStep s = deliver k c m s ∧ pollArm (pollBegun s) = .next (deliver k c m (pollBegun s)) := by
  rw [completeStep, if_pos h]
  obtain ⟨-, -, hes⟩ := (completeEnabled_iff s).1 h
  rcases hes with hes | hes | hes
  · exact ⟨.reply, codeNone, some s.cur.entry.msg, by rw [hes]; rfl, by simp only [pollArm, pollBegun, hes]; rfl⟩
  · exact ⟨.timeout, codeNone, none, by rw [hes]; rfl, by simp only [pollArm, pollBegun, hes]; rfl⟩
  · exact ⟨if s.exkind then .devExc else .crcFail, s.exc, none, by rw [hes]; rfl,
      by simp only [pollArm, pollBegun, hes]; rfl⟩

/-- Settles O47: both deliver one record, and they differ in LASTMS and the guard alone. -/
theorem completeDeliversAsThePollWould : Obligations.CompleteDeliversAsThePollWould := by
  refine ⟨fun s h hes => ?_, fun s hblocked => ?_⟩
  · obtain ⟨hv, ha⟩ := h.terminalSync ((terminalState_iff s.es).2 hes)
    obtain ⟨k, c, m, hcomplete, harm⟩ := completeStep_eq_deliver ((completeEnabled_iff s).2 ⟨hv, ha, hes⟩)
    refine ⟨deliver k c m s, congrArg Host.Outcome.next hcomplete, rfl, rfl, List.length_append, rfl, fun heff => ?_⟩
    have hguard : s.guard = false := heff.2
    rw [exec_poll_of_arm heff harm, ← hguard]
    rfl
  · refine congrArg Host.Outcome.next (completeStep_of_not_enabled fun hen => ?_)
    obtain ⟨hv, ha, hes⟩ := (completeEnabled_iff s).1 hen
    rcases hblocked with hvalid | hasync | hterm
    · exact absurd (hvalid.symm.trans hv) Bool.false_ne_true
    · exact absurd (ha.symm.trans hasync) Bool.false_ne_true
    · exact hterm hes

/-! ### The pending request (R182, R26) -/

/-- The sync slot and its flag are as before. -/
def RequestKept (s t : State) : Prop := t.syncReq = s.syncReq ∧ t.sync = s.sync

theorem requestKept_refl (s : State) : RequestKept s s := ⟨rfl, rfl⟩

theorem requestKept_pollOnce {s t : State} (h : pollOnce s = .next t) : RequestKept s t := by
  rw [pollOnce_frame h]; exact requestKept_refl s

theorem admission_ne_none_of_request {s : State} (h : s.syncReq = true) : admission true s ≠ none := by
  intro hadm
  obtain ⟨-, hfree, -⟩ := (admission_eq_none true s).1 hadm
  exact absurd ((hfree rfl).1.symm.trans h) Bool.false_ne_true

/-- A pending request outlives every command but RST.ABORT; a second SEND.S is refused (R170). -/
theorem exec_requestKept {i : Instr} {s : State} (hr : s.syncReq = true) (hi : i ≠ .rstAbort) :
    Leads (RequestKept s) (exec i s) := by
  cases i with
  | nop | crcInit | crcUpd | crcBuf | crcAppend | crcCheck | stb | ldb | wrreg | isReady | silDef =>
    intro t ht
    rw [sends_kept_of_commutes (exec_commutes rfl s) ht]
    exact requestKept_refl s
  | rdreg reg =>
    simp only [exec, execRdreg]
    split
    · exact leads_refuse (requestKept_refl s)
    · split
      · exact leads_fault
      · exact leads_accept (requestKept_refl s)
  | sendA =>
    simp only [exec, execSendA]
    split
    · exact leads_refuse (requestKept_refl s)
    · exact leads_ite (leads_accept (requestKept_refl s))
        (leads_ite leads_fault (leads_accept (requestKept_refl s)))
  | sendS =>
    simp only [exec, execSendS]
    split
    · exact leads_refuse (requestKept_refl s)
    · exact absurd ‹_› (admission_ne_none_of_request hr)
  | poll | getState =>
    intro t ht
    obtain ⟨u, hu, hanswer⟩ := andThen_eq_next ht
    cases hanswer
    have hkept := requestKept_pollOnce hu
    exact hkept
  | rstSoft => exact leads_ite (leads_accept (requestKept_refl s)) (leads_accept (requestKept_refl s))
  | rstAbort => exact absurd rfl hi

/-- A pending request is left alone until the dispatcher grants it in Idle. -/
theorem request_runEvent {e : Event} {s t : State} (hr : s.syncReq = true) (hpor : e ≠ .por)
    (habort : ¬IsCommand .rstAbort e) (ht : runEvent e s = .next t) :
    RequestKept s t ∨ (e = .dispGrant ∧ s.es = .idle ∧ t = started (granted s)) := by
  cases e with
  | command w =>
    rw [isCommand_command_iff] at habort
    simp only [runEvent, runCommand] at ht
    cases hd : decode w with
    | instr i =>
      rw [hd] at ht habort
      exact .inl (exec_requestKept hr (fun hi => habort (congrArg _ hi)) t ht)
    | rejected r =>
      rw [hd] at ht
      exact .inl (leads_refuse (requestKept_refl s) t ht)
  | tick | rxIn => cases ht; exact .inl (requestKept_refl s)
  | txOut =>
    cases ht
    obtain ⟨q, l, hq⟩ := txOutStep_eq s
    rw [hq]
    exact .inl (requestKept_refl s)
  | dispGrant =>
    rcases grantStep_cases ht with rfl | ⟨-, hes, -, rfl⟩
    · exact .inl (requestKept_refl _)
    · exact .inr ⟨rfl, hes, rfl⟩
  | dispComplete =>
    cases ht
    rcases completeStep_cases s with hc | ⟨-, k, c, m, hc⟩
    · rw [hc]; exact .inl (requestKept_refl s)
    · rw [hc]; exact .inl (requestKept_refl s)
  | por => exact absurd rfl hpor

/-! ### The busy call (R182, R186, R232) -/

/-- The call goes on and no record is emitted while it is busy, or it ends with the current packet's record. -/
def CallKeptOrEnded (s t : State) : Prop :=
  (t.syncBusy = s.syncBusy ∧ (s.syncBusy = true → t.cpl = s.cpl)) ∨
    (t.syncBusy = false ∧ ∃ kind code msg, t.cpl = s.cpl ++ [recordOf s kind code msg])

theorem callKept {s t : State} (hbusy : t.syncBusy = s.syncBusy) (hcpl : t.cpl = s.cpl) : CallKeptOrEnded s t :=
  .inl ⟨hbusy, fun _ => hcpl⟩

theorem callEnded_deliver (k : Kind) (c : Byte) (m : Option Message) (s : State) :
    CallKeptOrEnded s (deliver k c m s) := .inr ⟨rfl, k, c, m, rfl⟩

/-- A synchronous packet's record waits for its delivery (R142 to R145). -/
theorem awaitDecided_cpl_of_sync {s t : State} (ha : s.cur.entry.async = false) (h : awaitDecided s = .next t) :
    t.cpl = s.cpl := by
  rcases awaitDecided_cases h with ⟨-, hasync, -⟩ | ⟨-, -, -, rfl⟩ | ⟨-, -, bs, rest, -, -, -, hi⟩ | ⟨-, -, rfl⟩ |
    ⟨-, bs, rest, -, -, -, hi⟩
  · exact absurd (ha.symm.trans hasync) Bool.false_ne_true
  · rfl
  · have hcase := inspectReply_cases hi
    split at hcase <;> (subst hcase; rfl)
  · rfl
  · obtain ⟨-, hcase⟩ := classifyReply_cases hi
    have hsync : ¬(captured (writeAll s.cur.entry.msg.adu 0 bs) rest s).cur.entry.async = true :=
      Bool.eq_false_iff.1 ha
    rw [if_neg hsync, if_neg hsync] at hcase
    split at hcase <;> (subst hcase; rfl)

theorem call_pollArm {s t : State} (hsync : s.syncBusy = true → s.cur.entry.async = false)
    (h : pollArm s = .next t) : CallKeptOrEnded s t := by
  rcases pollArm_cases h with ⟨rfl, -⟩ | ⟨-, -, -, -, e, -, -, rfl⟩ | ⟨-, -, rfl⟩ | ⟨-, ha⟩ | ⟨-, rfl⟩ | ⟨-, rfl⟩ |
    ⟨-, rfl⟩ | ⟨-, d, -, -, rfl⟩
  · exact callKept rfl rfl
  · exact callKept rfl rfl
  · exact callKept rfl rfl
  · have hbusy := congrArg State.syncBusy (awaitDecided_frame ha)
    exact .inl ⟨hbusy, fun hb => awaitDecided_cpl_of_sync (s := { s with tocnt := s.tocnt - 1 }) (hsync hb) ha⟩
  · exact callEnded_deliver _ _ _ s
  · exact callEnded_deliver _ _ _ s
  · exact callEnded_deliver _ _ _ s
  · rw [flushIfPending_eq]; exact callKept rfl rfl

theorem call_pollOnce {s t : State} (hsync : s.syncBusy = true → s.cur.entry.async = false)
    (h : pollOnce s = .next t) : CallKeptOrEnded s t := by
  rcases pollOnce_eq_next h with ⟨-, rfl⟩ | ⟨-, u, hu, rfl⟩
  · exact callKept rfl rfl
  · have hcases := call_pollArm (s := pollBegun s) hsync hu
    exact hcases

theorem inv_sync_of_busy {s : State} (h : BlockInv s) (hb : s.syncBusy = true) : s.cur.entry.async = false := by
  obtain ⟨-, hsync, -⟩ := h.busyInFlight hb
  exact hsync

/-- Only a grant from Idle makes a call busy, and only its own record ends it. -/
theorem call_runEvent {e : Event} {s t : State} (h : BlockInv s) (hpor : e ≠ .por) (habort : ¬IsCommand .rstAbort e)
    (hgrant : e = .dispGrant → s.es ≠ .idle) (ht : runEvent e s = .next t) : CallKeptOrEnded s t := by
  cases e with
  | command w =>
    by_cases hp : IsPoll (.command w)
    · obtain ⟨u, v, hu, rfl⟩ := polled_of_isPoll hp ht
      have hcases := call_pollOnce (inv_sync_of_busy h) hu
      exact hcases
    · rw [(commandStep_of_runCommand (inv_nb_le h) t ht).frame hp habort]
      exact callKept rfl rfl
  | tick | rxIn => cases ht; exact callKept rfl rfl
  | txOut =>
    cases ht
    obtain ⟨q, l, hq⟩ := txOutStep_eq s
    rw [hq]
    exact callKept rfl rfl
  | dispGrant =>
    rcases grantStep_cases ht with rfl | ⟨-, hes, -⟩
    · exact callKept rfl rfl
    · exact absurd hes (hgrant rfl)
  | dispComplete =>
    cases ht
    rcases completeStep_cases s with hc | ⟨-, k, c, m, hc⟩
    · rw [hc]; exact callKept rfl rfl
    · rw [hc]; exact callEnded_deliver k c m s
  | por => exact absurd rfl hpor

/-- Settles O48: the pending phase by `request_runEvent`, the busy one by `call_runEvent`, where no grant is enabled. -/
theorem blockingCallReturnsWithItsRecord : Obligations.BlockingCallReturnsWithItsRecord := by
  intro e s t h hpor habort ht
  rw [step_scheduled] at ht
  refine ⟨fun hr => ?_, fun hb => ?_, fun hb hb' => ?_⟩
  · rcases request_runEvent hr hpor habort ht with ⟨hreq, hslot⟩ | ⟨he, hes, rfl⟩
    · have hr' : t.syncReq = true := hreq.trans hr
      exact .inl ⟨hr', (inv_runEvent h ht).requestNotBusy hr', hslot⟩
    · exact .inr ⟨he, hes, rfl, rfl, rfl, rfl⟩
  · obtain ⟨-, -, hidle, -⟩ := h.busyInFlight hb
    rcases call_runEvent h hpor habort (fun _ => hidle) ht with ⟨hbusy, hcpl⟩ | ⟨hended, kind, code, msg, hcpl⟩
    · exact .inl ⟨hbusy.trans hb, hcpl hb⟩
    · exact .inr ⟨hended, recordOf s kind code msg, hcpl, inv_sync_of_busy h hb, rfl, rfl⟩
  · by_contra he
    rcases call_runEvent h hpor habort (fun hg => absurd hg he) ht with ⟨hbusy, -⟩ | ⟨hended, -⟩
    · exact absurd (hb.symm.trans (hbusy.symm.trans hb')) Bool.false_ne_true
    · exact absurd (hended.symm.trans hb') Bool.false_ne_true

end Sys2Proof
end

section
/-! SUPPORT. WRREG as a register write that is accepted or refused (R213, R198, R199), and `silence_for` as a function of
the custom entry and the default table (R196, R201). -/

namespace Sys2Proof

open Sys2Proof.Machine Sys2Proof.Claims

/-! ### A register write, accepted or refused (R213) -/

theorem exec_wrreg_of_written {reg : Nat} {r : Reg} {v : Word} {s t : State}
    (hr : regOfNumber s.par.nb reg = some r) (hw : writeReg r v s = .ok t) :
    exec (.wrreg reg v) s = .next (accepted 0 t) := by
  simp only [exec, execWrreg, hr, hw, accept_eq_accepted]

theorem exec_wrreg_of_refused {reg : Nat} {r : Reg} {v : Word} {s : State} {reason : Reason}
    (hr : regOfNumber s.par.nb reg = some r) (hw : writeReg r v s = .error reason) :
    exec (.wrreg reg v) s = .next (refusedFor (reasonCode reason).toNat s) := by
  simp only [exec, execWrreg, hr, hw, refuse_eq_refusedFor]

/-- Settles O23: each clause is one side of the range test of its register's write. -/
theorem wrregBaudAndTimeoutCheckTheirRange : Obligations.WrregBaudAndTimeoutCheckTheirRange :=
  ⟨fun _ _ hv => exec_wrreg_of_written (r := .baud) rfl (if_pos hv),
    fun _ _ hv => exec_wrreg_of_refused (r := .baud) (reason := .badValue) rfl (if_neg (Nat.not_lt.2 hv)),
    fun _ _ hmin hmax => exec_wrreg_of_written (r := .timeout) rfl (if_pos ⟨hmin, hmax⟩),
    fun _ _ hv => exec_wrreg_of_refused (r := .timeout) (reason := .badValue) rfl (if_neg (by omega))⟩

/-! ### The silence table (R196, R201) -/

theorem exec_silDef (s : State) :
    exec .silDef s = .next (accepted 0 { s with sil := List.replicate s.sil.length 0 }) := accept_eq_accepted _ _

/-- R196's `silence_for(k)`, for an enumerant `k` by its custom entry and its row of the default table. -/
theorem silenceFor_of_entry {s : State} {k v : Word} {row : BaudRow} (hrow : s.par.baudTable[k.toNat]? = some row)
    (hv : s.sil[k.toNat]? = some v) : silenceFor s k = some (if v ≠ 0 then v.toNat else row.dsil) := by
  have hentry : s.sil.getD k.toNat 0 = v := by rw [List.getD_eq_getElem?_getD, hv, Option.getD_some]
  simp only [silenceFor, hrow, hentry, ite_not]
  exact (apply_ite some _ _ _).symm

/-- Settles O27: in each of the three tables `k` has an entry, and `silenceFor_of_entry` gives the silence from it. -/
theorem silDefRestoresTheDefaultTable : Obligations.SilDefRestoresTheDefaultTable := by
  refine ⟨fun s hlen => hlen ▸ exec_silDef s, fun k s row hrow => ?_, bareEncoding fun _ _ => rfl⟩
  have hk : k.toNat < s.par.nb := (List.getElem?_eq_some_iff.1 hrow).1
  refine ⟨?_, fun v hv => silenceFor_of_entry hrow hv, fun v hne hlen => ?_⟩
  · have hunset : (List.replicate s.par.nb (0 : Word))[k.toNat]? = some 0 := List.getElem?_replicate_of_lt hk
    exact silenceFor_of_entry (s := { s with sil := List.replicate s.par.nb 0 }) hrow hunset
  · have hset : (s.sil.set k.toNat v)[k.toNat]? = some v := List.getElem?_set_self (hlen ▸ hk)
    rw [silenceFor_of_entry (s := { s with sil := s.sil.set k.toNat v }) hrow hset, if_pos hne]

end Sys2Proof
end

section
/-! SUPPORT. The port access commands: what each command may write (R218), the register space by its numbers (R32, R33),
RDREG and WRREG on it (R212, R213), the staging bytes (R210, R211), GETSTATE, ISREADY and NOP (R214 to R217). -/

namespace Sys2Proof

open Sys2Proof.Machine Sys2Proof.Claims

/-! ### What each command may write (R218) -/

/-- The state `s` with what the command `i` may write taken from `t`. A poll or a reset may write anything here. -/
def ownWritten (i : Instr) (s t : State) : State :=
  match i with
  | .nop | .ldb _ | .rdreg _ | .isReady => { s with rsp := t.rsp }
  | .crcInit | .crcUpd _ | .crcBuf _ => { s with crc := t.crc, rsp := t.rsp }
  | .crcCheck _ => { s with crc := t.crc, crcOk := t.crcOk, rsp := t.rsp }
  | .crcAppend _ => { s with crc := t.crc, stg := t.stg, rsp := t.rsp }
  | .stb _ _ => { s with stg := t.stg, rsp := t.rsp }
  | .wrreg _ _ =>
    { s with
      ctrl := t.ctrl, baud := t.baud, tbaud := t.tbaud, timeout := t.timeout, sil := t.sil, stg := t.stg
      rsp := t.rsp }
  | .silDef => { s with sil := t.sil, rsp := t.rsp }
  | .sendA => { s with q := t.q, head := t.head, rsp := t.rsp }
  | .sendS => { s with sync := t.sync, syncReq := t.syncReq, rsp := t.rsp }
  | .poll | .getState | .rstSoft | .rstAbort => t

/-- The command writes only its own state. -/
def WritesOwn (i : Instr) (s t : State) : Prop := t = ownWritten i s t

theorem writesOwn_of_writeReg {r : Reg} {v : Word} {s t : State} (reg : Nat) (h : writeReg r v s = .ok t) :
    WritesOwn (.wrreg reg v) s (respond false 0 t) := by
  cases r with
  | ctrl | baud | timeout =>
    simp only [writeReg, writeCtrl, writeBaud, writeTimeout] at h
    split at h <;> cases h
    rfl
  | txlen | rxlen | ctx | mflags | sil k => cases h; rfl
  | crc | stat | head | tail | tocnt | msl | msh | silt0l | silt0h | dsil k | exc | silact => cases h

theorem exec_writesOwn (i : Instr) (s : State) : Leads (WritesOwn i s) (exec i s) := by
  cases i with
  | nop | crcInit | crcUpd | isReady | silDef => exact leads_accept rfl
  | crcBuf | crcAppend | crcCheck | stb | ldb => exact leads_ite (leads_refuse rfl) (leads_accept rfl)
  | wrreg reg value =>
    simp only [exec, execWrreg]
    split
    · exact leads_refuse rfl
    · split
      · exact leads_refuse rfl
      · exact leads_accept (writesOwn_of_writeReg reg ‹_›)
  | rdreg reg =>
    simp only [exec, execRdreg]
    split
    · exact leads_refuse rfl
    · split
      · exact leads_fault
      · exact leads_accept rfl
  | sendA =>
    simp only [exec, execSendA]
    split
    · exact leads_refuse rfl
    · exact leads_ite (leads_accept rfl) (leads_ite leads_fault (leads_accept rfl))
  | sendS =>
    simp only [exec, execSendS]
    split
    · exact leads_refuse rfl
    · exact leads_accept rfl
  | poll | getState | rstSoft | rstAbort => exact fun _ _ => rfl

/-- Settles O29: by cases on the command, from `exec_writesOwn`: what it may not write is the old state's. -/
theorem eachCommandWritesOnlyItsOwnState : Obligations.EachCommandWritesOnlyItsOwnState := by
  intro i s t hi ht
  have h : t = ownWritten i s t := exec_writesOwn i s t ht
  cases i with
  | poll | getState | rstSoft | rstAbort => simp at hi
  | _ =>
    rw [h]
    simp [ownWritten]

/-! ### Register numbers (R32) -/

/-- A number that names a register is that register's number in the table. -/
theorem regNumber_of_regOfNumber {nb reg : Nat} {r : Reg} (h : regOfNumber nb reg = some r) : regNumber r = reg := by
  unfold regOfNumber at h
  split at h
  case h_19 =>
    split at h
    · cases h; exact Nat.add_sub_cancel' (And.left ‹_›)
    · split at h
      · cases h; exact Nat.add_sub_cancel' (And.left ‹_›)
      · cases h
  all_goals cases h; rfl

/-- The numbers that R32 gives to single registers are those below 0x10, 0x30 and 0x31; the others are in the ranges of
SIL and DSIL or reserved. -/
theorem regOfNumber_unnamed {nb reg : Nat} (h : 0x10 ≤ reg ∧ reg ≠ 0x30 ∧ reg ≠ 0x31) :
    regOfNumber nb reg =
      if 0x10 ≤ reg ∧ reg < 0x10 + nb then some (.sil (reg - 0x10))
      else if 0x20 ≤ reg ∧ reg < 0x20 + nb then some (.dsil (reg - 0x20))
      else none := by
  unfold regOfNumber
  split
  case h_19 => rfl
  all_goals omega

theorem regOfNumber_sil {nb k : Nat} (hk : k < nb) (hnb : nb ≤ 16) : regOfNumber nb (0x10 + k) = some (.sil k) := by
  rw [regOfNumber_unnamed (by omega), if_pos (by omega), Nat.add_sub_cancel_left]

/-! ### The words of flags as numbers (R23, R31, R33, R38) -/

theorem flagAt_eq_mul (b : Bool) (n : Nat) : flagAt b n = b.toNat * 2 ^ n := by cases b <;> simp [flagAt]

theorem toNat_stateCode (e : EngineState) : (stateCode e).toNat = (engineCode e).toNat := by cases e <;> rfl

theorem not_ringEmpty_eq (s : State) : (!ringEmpty s) = decide (s.head ≠ s.tail) := by
  rw [decide_not]; rfl

theorem toNat_statWord (s : State) : (statWord s).toNat = statTable s := by
  have hfull : ringFull s = decide (nextIndex s s.head = s.tail) := rfl
  simp only [statWord, toNat_append_eq_add, toNat_bit, toNat_stateCode, hfull, not_ringEmpty_eq, statTable,
    flagAt_eq_mul, ready, curAsync, BitVec.ofNat_eq_ofNat, BitVec.toNat_ofNat]
  omega

theorem toNat_ctrlWord (c : Ctrl) :
    (ctrlWord c).toNat = flagAt c.sloaded 0 + flagAt c.bound 1 + flagAt c.diren 2 := by
  simp only [ctrlWord, toNat_append_eq_add, toNat_bit, flagAt_eq_mul, BitVec.ofNat_eq_ofNat, BitVec.toNat_ofNat]
  omega

theorem toNat_mflagsWord (g : Staging) : (mflagsWord g).toNat = flagAt g.msg.crcCheck 0 + 256 * g.cb.toNat := by
  simp only [mflagsWord, toNat_append_eq_add, toNat_bit, flagAt_eq_mul, BitVec.ofNat_eq_ofNat, BitVec.toNat_ofNat]
  omega

theorem toNat_excWord (s : State) : (excWord s).toNat = s.exc.toNat + flagAt s.exkind 8 := by
  simp only [excWord, toNat_append_eq_add, toNat_bit, flagAt_eq_mul, BitVec.ofNat_eq_ofNat, BitVec.toNat_ofNat]
  omega

theorem statTable_lt (s : State) : statTable s < 65536 := toNat_statWord s ▸ (statWord s).isLt

theorem toNat_lo16 (v : Word32) : (lo16 v).toNat = v.toNat % 65536 := BitVec.extractLsb'_toNat ..

theorem toNat_hi16 (v : Word32) : (hi16 v).toNat = v.toNat / 65536 := by
  have hv := v.isLt
  rw [hi16, BitVec.extractLsb'_toNat, Nat.shiftRight_eq_div_pow]
  omega

/-! ### The table of values (R32, R212) -/

/-- The table's rows for single registers passed over, the two ranges are left. -/
theorem registerTable_unnamed (s : State) {reg : Nat} (h : 0x10 ≤ reg ∧ reg ≠ 0x30 ∧ reg ≠ 0x31) :
    registerTable s reg =
      if 0x10 ≤ reg ∧ reg - 0x10 < s.par.nb then some (s.sil.getD (reg - 0x10) 0).toNat
      else if 0x20 ≤ reg ∧ reg - 0x20 < s.par.nb then (s.par.baudTable[reg - 0x20]?).map BaudRow.dsil
      else none := by
  rw [registerTable]
  iterate 18 rw [if_neg (by omega)]

theorem registerTable_sil {s : State} {k : Nat} (hk : k < s.par.nb) (hnb : s.par.nb ≤ 16) :
    registerTable s (0x10 + k) = some (s.sil.getD k 0).toNat := by
  rw [registerTable_unnamed s (by omega), if_pos (by omega), Nat.add_sub_cancel_left]

theorem registerTable_dsil {s : State} {k : Nat} (hk : k < s.par.nb) (hnb : s.par.nb ≤ 16) :
    registerTable s (0x20 + k) = (s.par.baudTable[k]?).map BaudRow.dsil := by
  rw [registerTable_unnamed s (by omega), if_neg (by omega), if_pos (by omega), Nat.add_sub_cancel_left]

/-- A reserved number is none of the single registers' (R32). -/
theorem unnamed_of_reserved {nb reg : Nat} (h : regOfNumber nb reg = none) :
    0x10 ≤ reg ∧ reg ≠ 0x30 ∧ reg ≠ 0x31 := by
  refine ⟨Nat.not_lt.1 fun hlt => ?_, ?_, ?_⟩
  · interval_cases reg <;> cases h
  · rintro rfl; cases h
  · rintro rfl; cases h

theorem registerTable_of_reserved {s : State} {reg : Nat} (h : regOfNumber s.par.nb reg = none) :
    registerTable s reg = none := by
  have hreg := unnamed_of_reserved h
  rw [regOfNumber_unnamed hreg] at h
  rw [registerTable_unnamed s hreg]
  split at h
  · cases h
  · split at h
    · cases h
    · rw [if_neg (by omega), if_neg (by omega)]

/-- A register's value is what the tables say of its number, as a word (R32, R33, R212). -/
theorem registerTable_of_regOfNumber {s : State} {reg : Nat} {r : Reg} (hnb : s.par.nb ≤ 16)
    (hbaud : s.baud.toNat < s.par.nb) (hr : regOfNumber s.par.nb reg = some r) :
    ∃ n, registerTable s reg = some n ∧ regValue s r = some (BitVec.ofNat 16 n) := by
  obtain ⟨-, hsil, hdsil⟩ := regOfNumber_range hr
  have hword {v : Word} {n : Nat} (h : v.toNat = n) : some v = some (BitVec.ofNat 16 n) := by
    rw [← h, BitVec.ofNat_toNat, BitVec.setWidth_eq]
  obtain rfl := regNumber_of_regOfNumber hr
  cases r with
  | crc | baud | timeout | txlen | rxlen | ctx | head | tail | tocnt => exact ⟨_, rfl, hword rfl⟩
  | stat => exact ⟨_, rfl, hword (toNat_statWord s)⟩
  | ctrl => exact ⟨_, rfl, hword (toNat_ctrlWord s.ctrl)⟩
  | mflags => exact ⟨_, rfl, hword (toNat_mflagsWord s.stg)⟩
  | msl => exact ⟨_, rfl, hword (toNat_lo16 s.ms)⟩
  | msh => exact ⟨_, rfl, hword (toNat_hi16 s.ms)⟩
  | silt0l => exact ⟨_, rfl, hword (toNat_lo16 s.silt0)⟩
  | silt0h => exact ⟨_, rfl, hword (toNat_hi16 s.silt0)⟩
  | exc => exact ⟨_, rfl, hword (toNat_excWord s)⟩
  | silact => exact ⟨_, rfl, congrArg (Option.map (BitVec.ofNat 16)) (silenceFor_baud hbaud)⟩
  | sil k =>
    have hk : k < s.par.nb := Nat.add_lt_add_iff_left.1 (hsil k rfl).2
    exact ⟨_, registerTable_sil hk hnb, hword rfl⟩
  | dsil k =>
    have hk := hdsil k rfl
    obtain ⟨row, hrow⟩ : ∃ row, s.par.baudTable[k]? = some row := ⟨_, List.getElem?_eq_getElem hk⟩
    exact ⟨row.dsil, (registerTable_dsil hk hnb).trans (by rw [hrow]; rfl), by rw [regValue, hrow]; rfl⟩

/-! ### RDREG (R212) -/

theorem exec_rdreg_of_value {reg : Nat} {r : Reg} {v : Word} {s : State} (hr : regOfNumber s.par.nb reg = some r)
    (hv : regValue s r = some v) : exec (.rdreg reg) s = .next (accepted v s) := by
  simp only [exec, execRdreg, hr, hv, accept_eq_accepted]

theorem exec_rdreg_of_reserved {reg : Nat} {s : State} (hr : regOfNumber s.par.nb reg = none) :
    exec (.rdreg reg) s = .next (refusedFor 4 s) := by
  simp only [exec, execRdreg, hr, refuse_eq_refusedFor]
  rfl

theorem numberEncoding {op : Byte} {i : Nat → Instr}
    (h : ∀ a v, decodeFields op a v = requireZero (v == 0) (i a.toNat)) : NumberEncoding op i := fun _ hop =>
  encoding_of_requireZero ((decode_of_opField hop).trans (h _ _)) beq_iff_eq

/-- Settles O21: a number that names a register by `registerTable_of_regOfNumber`, a reserved one by its refusal. -/
theorem rdregFollowsTheRegisterTable : Obligations.RdregFollowsTheRegisterTable := by
  refine ⟨fun reg s hlegal hbaud => ?_, statTable_lt, numberEncoding fun _ _ => rfl⟩
  obtain ⟨-, -, ⟨-, hnb⟩, -⟩ := hlegal
  cases hr : regOfNumber s.par.nb reg with
  | none => rw [registerTable_of_reserved hr, exec_rdreg_of_reserved hr]
  | some r =>
    obtain ⟨n, hn, hv⟩ := registerTable_of_regOfNumber hnb hbaud hr
    rw [hn, exec_rdreg_of_value hr hv]

/-! ### WRREG (R213) -/

/-- The registers that a write is for are CTRL to MFLAGS and SIL (R32, R213). -/
theorem writeReg_refused {nb reg : Nat} {r : Reg} (v : Word) (s : State) (hr : regOfNumber nb reg = some r)
    (hreg : reg ∉ [0x02, 0x03, 0x04, 0x05, 0x06, 0x07, 0x08]) (hsil : ¬(0x10 ≤ reg ∧ reg < 0x10 + nb)) :
    writeReg r v s = .error .badRegister := by
  obtain ⟨-, hrange, -⟩ := regOfNumber_range hr
  obtain rfl := regNumber_of_regOfNumber hr
  cases r with
  | ctrl | baud | timeout | txlen | rxlen | ctx | mflags => simp [regNumber] at hreg
  | sil k => exact absurd (hrange k rfl) hsil
  | crc | stat | head | tail | tocnt | msl | msh | silt0l | silt0h | dsil k | exc | silact => rfl

theorem exec_wrreg_of_reserved {reg : Nat} (v : Word) {s : State} (hr : regOfNumber s.par.nb reg = none) :
    exec (.wrreg reg v) s = .next (refusedFor 4 s) := by
  simp only [exec, execWrreg, hr, refuse_eq_refusedFor]
  rfl

/-- Settles O25: the number is reserved, or its register is one that no write is for; the decoder's row is `rfl`. -/
theorem wrregToOtherRegistersIsRefused : Obligations.WrregToOtherRegistersIsRefused := by
  refine ⟨fun reg v s _ hreg hsil => ?_, fun w hop => decode_of_opField hop⟩
  cases hr : regOfNumber s.par.nb reg with
  | none => exact exec_wrreg_of_reserved v hr
  | some r => exact exec_wrreg_of_refused hr (writeReg_refused v s hr hreg hsil)

/-- Settles O24: each number names its register, whose write takes every value. -/
theorem wrregStagingAndSilenceTakeEveryValue : Obligations.WrregStagingAndSilenceTakeEveryValue := fun v _ =>
  ⟨exec_wrreg_of_written (r := .txlen) rfl rfl, exec_wrreg_of_written (r := .rxlen) rfl rfl,
    exec_wrreg_of_written (r := .ctx) rfl rfl,
    exec_wrreg_of_written (r := .mflags) rfl (by rw [writeReg, hi8_eq_highByte]; rfl),
    fun _ hk hnb => exec_wrreg_of_written (regOfNumber_sil hk hnb) rfl⟩

/-! ### The staging bytes (R210, R211) -/

/-- V[15:8] is zero exactly for a V below 256 (R81). -/
theorem extract_high_eq_zero_iff (v : Word) : v.extractLsb' 8 8 = 0 ↔ v.toNat < 256 := by
  rw [← BitVec.toNat_inj, BitVec.extractLsb'_toNat]
  simp only [BitVec.ofNat_eq_ofNat, BitVec.toNat_ofNat, Nat.shiftRight_eq_div_pow]
  omega

theorem decode_stb {w : Word32} (hop : opField w = 0x10) :
    decode w = requireZero ((vField w).extractLsb' 8 8 == 0) (.stb (aField w).toNat ((vField w).setWidth 8)) := by
  rw [decode_of_opField hop, BitVec.setWidth_eq_extractLsb' (by decide)]
  rfl

/-- Settles O19: a read after the write, the bound, and the decoder row. -/
theorem stbRuns : Obligations.StbRuns := by
  refine ⟨fun i b s hwf hi => ?_, fun i b s hi => ?_, fun w hop => ?_⟩
  · refine ⟨Memory.write s.stg.msg.adu i b, Memory.read_write_eq _ i b hwf,
      fun j hj => Memory.read_write_ne _ i j b hj, ?_⟩
    rw [exec, execStb, if_neg (Nat.not_le.2 hi), accept_eq_accepted]
    rfl
  · rw [exec, execStb, if_pos hi, refuse_eq_refusedFor]
    rfl
  · exact encoding_of_requireZero (decode_stb hop) (beq_iff_eq.trans (extract_high_eq_zero_iff _))

/-- Settles O20: the two sides of the bound, and the decoder row. -/
theorem ldbRuns : Obligations.LdbRuns := by
  refine ⟨fun i s hi => ?_, fun i s hi => ?_, numberEncoding fun _ _ => rfl⟩
  · rw [exec, execLdb, if_neg (Nat.not_le.2 hi), accept_eq_accepted]
  · rw [exec, execLdb, if_pos hi, refuse_eq_refusedFor]
    rfl

/-! ### GETSTATE, ISREADY and NOP (R214, R216, R217) -/

theorem engineCode_lt (e : EngineState) : (engineCode e).toNat < 7 := by cases e <;> decide

/-- Settles O28: both commands run the same poll, which goes on from the invariant. -/
theorem getStatePollsThenAnswersTheState : Obligations.GetStatePollsThenAnswersTheState := by
  refine ⟨fun s h => ?_, bareEncoding fun _ _ => rfl⟩
  obtain ⟨u, hu, -⟩ := pollOnce_next h
  exact ⟨u, exec_poll_of_pollOnce hu, exec_getState_of_pollOnce hu, engineCode_lt u.es⟩

theorem exec_isReady (s : State) :
    exec .isReady s = .next (accepted (if s.ctrl.sloaded = true ∧ s.ctrl.bound = true then 1 else 0) s) := by
  rw [exec, execIsReady, accept_eq_accepted, ready]
  cases s.ctrl.sloaded <;> cases s.ctrl.bound <;> rfl

/-- STAT[6] is `ready` (R33, R216). -/
theorem getLsbD_statWord_ready (s : State) : (statWord s).getLsbD 6 = ready s := by
  simp only [statWord, BitVec.getLsbD_append]
  simp [bit]

/-- Settles O26: ISREADY's answer, the bit of STAT that RDREG reads, and that CTRL is sticky. -/
theorem isReadyRuns : Obligations.IsReadyRuns := by
  refine ⟨exec_isReady, fun s => ?_, fun e s t hpor ht hready => ?_, bareEncoding fun _ _ => rfl⟩
  · exact ⟨statWord s, exec_rdreg_of_value (r := .stat) rfl rfl, by rw [getLsbD_statWord_ready, ready_iff]⟩
  · obtain ⟨hsloaded, hbound⟩ := hready
    obtain ⟨hs, hb⟩ := ctrlKept_runEvent hpor ht
    exact ⟨hs hsloaded, (hb hbound).1⟩

/-- Settles O18: NOP is its answer, and the decoder row. -/
theorem nopRuns : Obligations.NopRuns := ⟨fun _ => accept_eq_accepted _ _, bareEncoding fun _ _ => rfl⟩

end Sys2Proof
end

section
/-! SUPPORT. That no step stops (R242, R60, R113), and the completion record a transaction ends with (R232, R233, R225):
the trace grows by the current packet's record in exactly the steps that enter Silent with something to report. -/

namespace Sys2Proof

open Sys2Proof.Machine Sys2Proof.Claims

/-! ### No step and no command stops (R242) -/

/-- Settles O56: the hold, or the scheduled agent's step by `runEvent_runs`; a command by `exec_runs`. -/
theorem noStepEverStops : Obligations.NoStepEverStops := by
  refine ⟨fun s h => ?_, fun i s h => exec_runs h i⟩
  cases hsched : s.schedule with
  | nil => exact ⟨s, by simp only [step, hsched]⟩
  | cons e rest =>
    rw [step_of_schedule hsched]
    exact runEvent_runs (inv_free h _ _ _ _ _ _ _ _ _ _ _) e

/-! ### The fields of a record (R232, R233) -/

/-- A message exactly in a REPLY, a code only in a DEVEXC, and TIMEOUT and DEVEXC for synchronous packets only. -/
def FieldsFit (c : Completion) : Prop :=
  (c.msg.isSome = true ↔ c.kind = .reply) ∧ (c.kind ≠ .devExc → c.code = 0x00) ∧
    (c.kind = .timeout ∨ c.kind = .devExc → c.async = false)

theorem fieldsFit_reply (s : State) (m : Message) : FieldsFit (recordOf s .reply codeNone (some m)) := by
  simp [FieldsFit, recordOf, codeNone]

theorem fieldsFit_crcFail (s : State) : FieldsFit (recordOf s .crcFail codeNone none) := by
  simp [FieldsFit, recordOf, codeNone]

theorem fieldsFit_timeout {s : State} (ha : s.cur.entry.async = false) :
    FieldsFit (recordOf s .timeout codeNone none) := by
  simp [FieldsFit, recordOf, codeNone, ha]

theorem fieldsFit_devExc {s : State} (ha : s.cur.entry.async = false) (code : Byte) :
    FieldsFit (recordOf s .devExc code none) := by
  simp [FieldsFit, recordOf, ha]

/-- The latched exception (R148): a device's code, or none for a CRC failure. -/
theorem fieldsFit_exception {s : State} (ha : s.cur.entry.async = false) (hexc : s.exkind = false → s.exc = codeNone) :
    FieldsFit (recordOf s (if s.exkind then .devExc else .crcFail) s.exc none) := by
  cases hk : s.exkind with
  | true => exact fieldsFit_devExc ha s.exc
  | false => rw [hexc hk]; exact fieldsFit_crcFail s

/-! ### The record of a step (R232, R225) -/

/-- The current packet's record, with fields that fit its kind, is the one addition to the trace. -/
def RecordEmitted (s t : State) : Prop :=
  ∃ kind code msg, FieldsFit (recordOf s kind code msg) ∧ t.cpl = s.cpl ++ [recordOf s kind code msg]

/-- The step enters Silent, and not by the countdown of AwaitReply running out. -/
def EndsWithRecord (s t : State) : Prop :=
  s.es ≠ .silent ∧ t.es = .silent ∧ ¬(s.es = .awaitReply ∧ s.tocnt = 1)

/-- A record is emitted if the step is to end with one, and none otherwise. -/
def RecordIffEnd (s t : State) : Prop :=
  (¬EndsWithRecord s t ∧ t.cpl = s.cpl) ∨ (EndsWithRecord s t ∧ RecordEmitted s t)

theorem recordIffEnd_of_not_silent {s t : State} (hes : t.es ≠ .silent) (hcpl : t.cpl = s.cpl) : RecordIffEnd s t :=
  .inl ⟨fun ⟨_, hsilent, _⟩ => hes hsilent, hcpl⟩

theorem recordIffEnd_of_kept {s t : State} (hes : t.es = s.es) (hcpl : t.cpl = s.cpl) : RecordIffEnd s t :=
  .inl ⟨fun ⟨hne, hsilent, _⟩ => hne (hes.symm.trans hsilent), hcpl⟩

theorem recordIffEnd_deliver {s : State} {k : Kind} {c : Byte} {m : Option Message}
    (hterm : terminalState s.es = true) (hfit : FieldsFit (recordOf s k c m)) : RecordIffEnd s (deliver k c m s) := by
  refine .inr ⟨⟨?_, rfl, ?_⟩, k, c, m, hfit, rfl⟩
  · intro hes; simp [hes, terminalState] at hterm
  · rintro ⟨hes, -⟩; simp [hes, terminalState] at hterm

/-- A captured reply ends an asynchronous transaction with its record; a synchronous one waits for its delivery
(R144, R145). -/
theorem classifyReply_record {s t : State} (h : classifyReply s = .next t) :
    (t.es ≠ .silent ∧ t.cpl = s.cpl) ∨ (t.es = .silent ∧ RecordEmitted s t) := by
  obtain ⟨-, hcase⟩ := classifyReply_cases h
  split at hcase
  · split at hcase <;> subst hcase
    · exact .inr ⟨rfl, _, _, _, fieldsFit_reply s _, rfl⟩
    · exact .inl ⟨nofun, rfl⟩
  · split at hcase <;> subst hcase
    · exact .inr ⟨rfl, _, _, _, fieldsFit_crcFail s, rfl⟩
    · exact .inl ⟨nofun, rfl⟩

/-- AwaitReply (R139 to R145): the countdown that runs out leaves no record, a reply at most one. -/
theorem recordIffEnd_await {s t : State} (hes : s.es = .awaitReply)
    (h : awaitDecided { s with tocnt := s.tocnt - 1 } = .next t) : RecordIffEnd s t := by
  rcases awaitDecided_cases h with ⟨h0, -, rfl⟩ | ⟨-, -, -, rfl⟩ | ⟨-, -, bs, rest, -, -, -, hi⟩ | ⟨-, -, rfl⟩ |
    ⟨h0, bs, rest, -, -, -, hi⟩
  · exact .inl ⟨fun ⟨_, _, hrest⟩ => hrest ⟨hes, tocnt_sub_one_eq_zero_iff.1 h0⟩, rfl⟩
  · exact recordIffEnd_of_not_silent nofun rfl
  · have hcase := inspectReply_cases hi
    split at hcase <;> subst hcase
    · exact recordIffEnd_of_not_silent nofun rfl
    · exact recordIffEnd_of_not_silent nofun rfl
  · exact recordIffEnd_of_kept rfl rfl
  · rcases classifyReply_record hi with ⟨hne, hcpl⟩ | ⟨hsilent, hrecord⟩
    · exact recordIffEnd_of_not_silent hne hcpl
    · exact .inr ⟨⟨hes.trans_ne nofun, hsilent, fun ⟨_, hone⟩ => h0 (tocnt_sub_one_eq_zero_iff.2 hone)⟩, hrecord⟩

theorem recordIffEnd_pollArm {s t : State} (h : BlockInv { s with guard := false }) (ht : pollArm s = .next t) :
    RecordIffEnd s t := by
  have hsync (hterm : terminalState s.es = true) : s.cur.entry.async = false := (h.terminalSync hterm).2
  rcases pollArm_cases ht with ⟨rfl, -⟩ | ⟨-, -, -, -, e, -, -, rfl⟩ | ⟨-, -, rfl⟩ | ⟨hes, ha⟩ | ⟨hes, rfl⟩ |
    ⟨hes, rfl⟩ | ⟨hes, rfl⟩ | ⟨-, d, -, -, rfl⟩
  · exact recordIffEnd_of_kept rfl rfl
  · exact recordIffEnd_of_not_silent nofun rfl
  · exact recordIffEnd_of_not_silent nofun rfl
  · exact recordIffEnd_await hes ha
  · exact recordIffEnd_deliver (by rw [hes]; rfl) (fieldsFit_reply s _)
  · have hterm : terminalState s.es = true := by rw [hes]; rfl
    exact recordIffEnd_deliver hterm (fieldsFit_exception (hsync hterm) h.excCode)
  · have hterm : terminalState s.es = true := by rw [hes]; rfl
    exact recordIffEnd_deliver hterm (fieldsFit_timeout (hsync hterm))
  · rw [flushIfPending_eq]; exact recordIffEnd_of_not_silent nofun rfl

/-- An effective poll sets the tick it uses and the guard before its arm (R132), neither of which is in the record. -/
theorem recordIffEnd_pollBegun {s t : State} (h : BlockInv s) (ht : pollArm (pollBegun s) = .next t) :
    RecordIffEnd s t :=
  recordIffEnd_pollArm (s := pollBegun s) { h with guardClear := rfl } ht

theorem recordIffEnd_pollOnce {s t : State} (h : BlockInv s) (ht : pollOnce s = .next t) : RecordIffEnd s t := by
  rcases pollOnce_eq_next ht with ⟨-, rfl⟩ | ⟨-, u, hu, rfl⟩
  · exact recordIffEnd_of_kept rfl rfl
  · have hrecord := recordIffEnd_pollBegun h hu
    exact hrecord

/-- Of the commands only the polls end a transaction with a record (R218, R253). -/
theorem recordIffEnd_runCommand {w : Word32} {s t : State} (h : BlockInv s) (ht : runCommand w s = .next t) :
    RecordIffEnd s t := by
  cases commandStep_of_runCommand (inv_nb_le h) t ht with
  | polled _ hu v =>
    have hrecord := recordIffEnd_pollOnce h hu
    exact hrecord
  | enqueued | flushed | resetPending => exact recordIffEnd_of_kept rfl rfl
  | aborted => exact recordIffEnd_of_not_silent nofun rfl
  | hostOnly _ _ hframe => rw [hframe]; exact recordIffEnd_of_kept rfl rfl

/-- DISP.COMPLETE emits what the poll's arm would (R186). -/
theorem recordIffEnd_completeStep {s : State} (h : BlockInv s) : RecordIffEnd s (completeStep s) := by
  by_cases hen : completeEnabled s = true
  · obtain ⟨k, c, m, hcomplete, harm⟩ := completeStep_eq_deliver hen
    have hrecord := recordIffEnd_pollBegun h harm
    rw [hcomplete]
    exact hrecord
  · rw [completeStep_of_not_enabled hen]
    exact recordIffEnd_of_kept rfl rfl

theorem recordIffEnd_runEvent {e : Event} {s t : State} (h : BlockInv s) (hpor : e ≠ .por)
    (ht : runEvent e s = .next t) : RecordIffEnd s t := by
  cases e with
  | command w => exact recordIffEnd_runCommand h ht
  | tick | rxIn => cases ht; exact recordIffEnd_of_kept rfl rfl
  | txOut =>
    cases ht
    obtain ⟨q, l, hq⟩ := txOutStep_eq s
    rw [hq]
    exact recordIffEnd_of_kept rfl rfl
  | dispGrant =>
    rcases grantStep_cases ht with rfl | ⟨-, -, -, rfl⟩
    · exact recordIffEnd_of_kept rfl rfl
    · exact recordIffEnd_of_not_silent nofun rfl
  | dispComplete => cases ht; exact recordIffEnd_completeStep h
  | por => exact absurd rfl hpor

/-- Settles O49: `recordIffEnd_runEvent` says of each agent's step whether it ends with a record, and with which. -/
theorem eachTransactionEndsWithAtMostOneRecord : Obligations.EachTransactionEndsWithAtMostOneRecord := by
  intro e s t h hpor ht
  rw [step_scheduled] at ht
  rcases recordIffEnd_runEvent h hpor ht with ⟨hno, hcpl⟩ | ⟨hends, kind, code, msg, ⟨hmsg, hcode, hsync⟩, hcpl⟩
  · exact ⟨fun hends => absurd hends hno, fun _ => hcpl⟩
  · exact ⟨fun _ => ⟨recordOf s kind code msg, hcpl, rfl, rfl, rfl, hmsg, hcode, hsync⟩, fun hno => absurd hends hno⟩

end Sys2Proof
end

section
/-! SUPPORT. The two reset commands (R252 to R255): RST.ABORT in every state, RST.SOFT by whether a transaction is in
flight. -/

namespace Sys2Proof

open Sys2Proof.Machine Sys2Proof.Claims

theorem exec_rstAbort (s : State) : exec .rstAbort s = .next (accepted 0 (aborted s)) :=
  (execRstAbort_eq s).trans (accept_eq_accepted 0 (aborted s))

/-- With nothing in flight RST.SOFT drops the waiting entries at once (R254). -/
theorem exec_rstSoft_of_nothingInFlight {s : State} (h : s.es = .idle ∧ s.cur.valid = false) :
    exec .rstSoft s = .next (accepted 0 { s with head := s.tail }) := by
  rw [exec, execRstSoft, if_pos h, accept_eq_accepted]

/-- With a transaction in flight RST.SOFT leaves the ring for the end of the silence to flush (R254, R152). -/
theorem exec_rstSoft_of_inFlight {s : State} (h : ¬(s.es = .idle ∧ s.cur.valid = false)) :
    exec .rstSoft s = .next (accepted 0 { s with rstPend := true }) := by
  rw [exec, execRstSoft, if_neg h, accept_eq_accepted]

/-- Settles O51: `aborted` written out is the state of the claim, and the decoder row. -/
theorem rstAbortRuns : Obligations.RstAbortRuns := ⟨exec_rstAbort, bareEncoding fun _ _ => rfl⟩

/-- Settles O52: the two sides of the test for a transaction in flight, and the decoder row. -/
theorem rstSoftRuns : Obligations.RstSoftRuns := by
  refine ⟨fun s hidle hfree => exec_rstSoft_of_nothingInFlight ⟨hidle, hfree⟩, fun s hbusy => ?_,
    bareEncoding fun _ _ => rfl⟩
  refine exec_rstSoft_of_inFlight fun ⟨hidle, hfree⟩ => ?_
  rcases hbusy with hes | hvalid
  · exact hes hidle
  · exact Bool.false_ne_true (hfree.symm.trans hvalid)

end Sys2Proof
end
